-- ==== Sys2Proof/Word.lean ====
section
/-! DEFINITION. The words of the machine: bytes, instruction words, addresses, register numbers (00_scope.md R4, R7). -/

namespace Sys2Proof

/-- A byte of memory or the contents of a general register (10_state.md R10, R23). -/
abbrev Byte := BitVec 8

/-- An instruction word, a program counter value, a return address (30_encoding.md R60, 10_state.md R13, R16). -/
abbrev Word := BitVec 16

/-- A 12-bit absolute byte address: the `nnn` field and the index register (30_encoding.md R65, 10_state.md R15). -/
abbrev Addr := BitVec 12

/-- A 4-bit field of an instruction word (30_encoding.md R61). -/
abbrev Nibble := BitVec 4

/-- The number of a general register, 0 to 15 (10_state.md R10). -/
abbrev RegNum := Fin 16

/-- The number of a key, 0 to 15 (10_state.md R22). -/
abbrev KeyNum := Fin 16

/-- The framebuffer of 10_state.md R20: 32 rows, row 0 first, each row 64 one-bit cells, bit `col` of a row being the
cell of column `col`. -/
abbrev Framebuffer := Vector (BitVec 64) 32

end Sys2Proof
end

