-- ==== Sys2Proof/Syntax.lean ====
section
/-! DEFINITION. The decoded record of a word (30_encoding.md R61, R62) and the 34 instructions (R66). Bits that select no
handler and carry no operand ("ignored", R69) are kept as an argument, so that an instruction determines its whole word:
a fault of CALL or RET records that word (60_exceptions.md R158, R159). -/

namespace Sys2Proof

/-- The record that decoding extracts from every word (R61, R62): the primary group and the five overlapping operand
fields. -/
structure Fields where
  g   : Nibble
  x   : Nibble
  y   : Nibble
  n   : Nibble
  kk  : Byte
  nnn : Addr
  deriving DecidableEq, Repr

/-- One constructor per row of the opcode table (30_encoding.md R66), in its order. -/
inductive Instr where
  /-- `0-E0` Clear screen; bits 11:8 ignored. -/
  | cls (ignored : Nibble)
  /-- `0-EE` Return from subroutine; bits 11:8 ignored. -/
  | ret (ignored : Nibble)
  /-- `1nnn` Jump absolute. -/
  | jp (nnn : Addr)
  /-- `2nnn` Call subroutine. -/
  | call (nnn : Addr)
  /-- `3xkk` Skip if reg==imm. -/
  | seImm (x : RegNum) (kk : Byte)
  /-- `4xkk` Skip if reg!=imm. -/
  | sneImm (x : RegNum) (kk : Byte)
  /-- `5xy-` Skip if regX==regY; bits 3:0 ignored. -/
  | seReg (x y : RegNum) (ignored : Nibble)
  /-- `9xy-` Skip if regX!=regY; bits 3:0 ignored. -/
  | sneReg (x y : RegNum) (ignored : Nibble)
  /-- `6xkk` Load immediate. -/
  | ldImm (x : RegNum) (kk : Byte)
  /-- `7xkk` Add immediate. -/
  | addImm (x : RegNum) (kk : Byte)
  /-- `8xy0` Move reg. -/
  | ldReg (x y : RegNum)
  /-- `8xy1` OR reg. -/
  | orReg (x y : RegNum)
  /-- `8xy2` AND reg. -/
  | andReg (x y : RegNum)
  /-- `8xy3` XOR reg. -/
  | xorReg (x y : RegNum)
  /-- `8xy4` Add reg with carry. -/
  | addReg (x y : RegNum)
  /-- `8xy5` Sub reg with borrow (x-y). -/
  | subReg (x y : RegNum)
  /-- `8xy6` Shift right; y is decoded and not used. -/
  | shr (x y : RegNum)
  /-- `8xy7` Sub reg reversed (y-x). -/
  | subnReg (x y : RegNum)
  /-- `8xyE` Shift left; y is decoded and not used. -/
  | shl (x y : RegNum)
  /-- `Annn` Load index. -/
  | ldI (nnn : Addr)
  /-- `Bnnn` Jump relative to reg0. -/
  | jpV0 (nnn : Addr)
  /-- `Cxkk` Random AND immediate. -/
  | rnd (x : RegNum) (kk : Byte)
  /-- `Dxyn` Draw sprite. -/
  | drw (x y : RegNum) (n : Nibble)
  /-- `Ex9E` Skip if key pressed. -/
  | skp (x : RegNum)
  /-- `ExA1` Skip if key not pressed. -/
  | sknp (x : RegNum)
  /-- `Fx07` Load delay timer into reg. -/
  | ldVxDT (x : RegNum)
  /-- `Fx0A` Block until key pressed. -/
  | ldVxK (x : RegNum)
  /-- `Fx15` Set delay timer from reg. -/
  | ldDTVx (x : RegNum)
  /-- `Fx18` Set sound timer from reg. -/
  | ldSTVx (x : RegNum)
  /-- `Fx1E` Add reg to index. -/
  | addI (x : RegNum)
  /-- `Fx29` Load glyph address. -/
  | ldF (x : RegNum)
  /-- `Fx33` Store BCD. -/
  | ldB (x : RegNum)
  /-- `Fx55` Store register block. -/
  | stBlock (x : RegNum)
  /-- `Fx65` Load register block. -/
  | ldBlock (x : RegNum)
  deriving DecidableEq, Repr

end Sys2Proof
end

