-- ==== Sys2Proof/WellFormed.lean ====
section
/-! DEFINITION. The checks on decoded terms. An `Instr` needs no check: by the types of its arguments every register
number is below 16 and every field has its width (30_encoding.md R62), so a statement about "every well-formed
instruction" is a statement about every `Instr`. Two checks remain. The record of the decoder is well formed when its
overlapping fields agree (R61, R62). A term is canonical when its ignored bits are 0 (R69); non-canonical terms are legal
and run (log 8). -/

namespace Sys2Proof

/-- R61: `kk` is y and n side by side. -/
def Fields.kkAgrees (f : Fields) : Bool := f.kk == f.y ++ f.n

/-- R61: `nnn` is x and `kk` side by side. -/
def Fields.nnnAgrees (f : Fields) : Bool := f.nnn == f.x ++ f.kk

/-- R62: a well-formed record, that is one whose overlapping fields agree. -/
def Fields.wellFormed (f : Fields) : Bool := f.kkAgrees && f.nnnAgrees

/-- R69: the canonical encodings are those whose ignored bits are 0 (every y is canonical in SHR and SHL). -/
def Instr.canonical : Instr → Bool
  | .cls u => u == 0
  | .ret u => u == 0
  | .seReg _ _ u => u == 0
  | .sneReg _ _ u => u == 0
  | .jp _ | .call _ | .seImm _ _ | .sneImm _ _ | .ldImm _ _ | .addImm _ _ | .ldReg _ _ | .orReg _ _ | .andReg _ _
  | .xorReg _ _ | .addReg _ _ | .subReg _ _ | .shr _ _ | .subnReg _ _ | .shl _ _ | .ldI _ | .jpV0 _ | .rnd _ _
  | .drw _ _ _ | .skp _ | .sknp _ | .ldVxDT _ | .ldVxK _ | .ldDTVx _ | .ldSTVx _ | .addI _ | .ldF _ | .ldB _
  | .stBlock _ | .ldBlock _ => true

end Sys2Proof
end

