-- ==== Sys2Proof/Decode.lean ====
section
/-! DEFINITION. From words and bytes to instructions (30_encoding.md R60 to R70), the encoder, and the opcode table
(R66). The numeric opcodes are PRESUMED: the spec takes them from general knowledge (log 1). -/

namespace Sys2Proof

/-- R61, R62: the fields of a word, each a slice at a fixed place. -/
def Fields.ofWord (op : Word) : Fields where
  g   := op.extractLsb' 12 4
  x   := op.extractLsb' 8 4
  y   := op.extractLsb' 4 4
  n   := op.extractLsb' 0 4
  kk  := op.extractLsb' 0 8
  nnn := op.extractLsb' 0 12

/-- A 4-bit field always names one of the 16 registers (R62). -/
def regNum (b : Nibble) : RegNum := b.toFin

/-- Group 0x0 is sub-classified by the low byte; bits 11:8 are ignored (R68, R69). -/
def decodeGroup0 (f : Fields) : Option Instr :=
  if f.kk = 0xE0#8 then some (.cls f.x)
  else if f.kk = 0xEE#8 then some (.ret f.x)
  else none

/-- Group 0x8 is sub-classified by the low nibble (R68). -/
def decodeGroup8 (f : Fields) : Option Instr :=
  if f.n = 0x0#4 then some (.ldReg (regNum f.x) (regNum f.y))
  else if f.n = 0x1#4 then some (.orReg (regNum f.x) (regNum f.y))
  else if f.n = 0x2#4 then some (.andReg (regNum f.x) (regNum f.y))
  else if f.n = 0x3#4 then some (.xorReg (regNum f.x) (regNum f.y))
  else if f.n = 0x4#4 then some (.addReg (regNum f.x) (regNum f.y))
  else if f.n = 0x5#4 then some (.subReg (regNum f.x) (regNum f.y))
  else if f.n = 0x6#4 then some (.shr (regNum f.x) (regNum f.y))
  else if f.n = 0x7#4 then some (.subnReg (regNum f.x) (regNum f.y))
  else if f.n = 0xE#4 then some (.shl (regNum f.x) (regNum f.y))
  else none

/-- Group 0xE is sub-classified by the low byte (R68). -/
def decodeGroupE (f : Fields) : Option Instr :=
  if f.kk = 0x9E#8 then some (.skp (regNum f.x))
  else if f.kk = 0xA1#8 then some (.sknp (regNum f.x))
  else none

/-- Group 0xF is sub-classified by the low byte (R68). -/
def decodeGroupF (f : Fields) : Option Instr :=
  if f.kk = 0x07#8 then some (.ldVxDT (regNum f.x))
  else if f.kk = 0x0A#8 then some (.ldVxK (regNum f.x))
  else if f.kk = 0x15#8 then some (.ldDTVx (regNum f.x))
  else if f.kk = 0x18#8 then some (.ldSTVx (regNum f.x))
  else if f.kk = 0x1E#8 then some (.addI (regNum f.x))
  else if f.kk = 0x29#8 then some (.ldF (regNum f.x))
  else if f.kk = 0x33#8 then some (.ldB (regNum f.x))
  else if f.kk = 0x55#8 then some (.stBlock (regNum f.x))
  else if f.kk = 0x65#8 then some (.ldBlock (regNum f.x))
  else none

/-- R68: first the primary group, then the sub-key in groups 0x0, 0x8, 0xE and 0xF, and nothing else. -/
def decodeFields (f : Fields) : Option Instr :=
  if f.g = 0x0#4 then decodeGroup0 f
  else if f.g = 0x1#4 then some (.jp f.nnn)
  else if f.g = 0x2#4 then some (.call f.nnn)
  else if f.g = 0x3#4 then some (.seImm (regNum f.x) f.kk)
  else if f.g = 0x4#4 then some (.sneImm (regNum f.x) f.kk)
  else if f.g = 0x5#4 then some (.seReg (regNum f.x) (regNum f.y) f.n)
  else if f.g = 0x6#4 then some (.ldImm (regNum f.x) f.kk)
  else if f.g = 0x7#4 then some (.addImm (regNum f.x) f.kk)
  else if f.g = 0x8#4 then decodeGroup8 f
  else if f.g = 0x9#4 then some (.sneReg (regNum f.x) (regNum f.y) f.n)
  else if f.g = 0xA#4 then some (.ldI f.nnn)
  else if f.g = 0xB#4 then some (.jpV0 f.nnn)
  else if f.g = 0xC#4 then some (.rnd (regNum f.x) f.kk)
  else if f.g = 0xD#4 then some (.drw (regNum f.x) (regNum f.y) f.n)
  else if f.g = 0xE#4 then decodeGroupE f
  else decodeGroupF f

/-- `Decode` of R68, total on words: the instruction, or none for an unrecognised opcode (R70). -/
def decodeWord (op : Word) : Option Instr := decodeFields (Fields.ofWord op)

/-- What decoding a byte sequence gives. -/
inductive DecodeResult where
  /-- The instruction of the first two bytes, and the bytes after it. -/
  | instr (i : Instr) (rest : List Byte)
  /-- The first two bytes form a word that selects no handler (R70). -/
  | unrecognizedOpcode (op : Word)
  /-- Fewer than two bytes: no instruction word (R60). -/
  | truncated
  deriving DecidableEq, Repr

/-- R40, R60: a word is two bytes, the first supplying bits 15 to 8. -/
def wordOfBytes (hi lo : Byte) : Word := hi ++ lo

/-- The two bytes of a word as they lie in memory, the byte at the lower address first (R40). -/
def bytesOfWord (w : Word) : List Byte := [w.extractLsb' 8 8, w.extractLsb' 0 8]

/-- Decoding, total on any bytes. -/
def decodeBytes : List Byte → DecodeResult
  | hi :: lo :: rest =>
    match decodeWord (wordOfBytes hi lo) with
    | some i => .instr i rest
    | none => .unrecognizedOpcode (wordOfBytes hi lo)
  | [_] => .truncated
  | [] => .truncated

/-- The 4-bit field of a register number. -/
def regField (x : RegNum) : Nibble := .ofFin x

/-- A word of format A: group and address (R61). -/
def formatA (g : Nibble) (nnn : Addr) : Word := g ++ nnn

/-- A word of formats XK, X and Z: group, register or ignored bits, byte (R61). -/
def formatXK (g x : Nibble) (kk : Byte) : Word := g ++ (x ++ kk)

/-- A word of formats XY and XYN: group, two registers, nibble (R61). -/
def formatXYN (g x y n : Nibble) : Word := g ++ (x ++ (y ++ n))

/-- The word of an instruction, from the table of R66. -/
def encode : Instr → Word
  | .cls u => formatXK 0x0 u 0xE0
  | .ret u => formatXK 0x0 u 0xEE
  | .jp nnn => formatA 0x1 nnn
  | .call nnn => formatA 0x2 nnn
  | .seImm x kk => formatXK 0x3 (regField x) kk
  | .sneImm x kk => formatXK 0x4 (regField x) kk
  | .seReg x y u => formatXYN 0x5 (regField x) (regField y) u
  | .sneReg x y u => formatXYN 0x9 (regField x) (regField y) u
  | .ldImm x kk => formatXK 0x6 (regField x) kk
  | .addImm x kk => formatXK 0x7 (regField x) kk
  | .ldReg x y => formatXYN 0x8 (regField x) (regField y) 0x0
  | .orReg x y => formatXYN 0x8 (regField x) (regField y) 0x1
  | .andReg x y => formatXYN 0x8 (regField x) (regField y) 0x2
  | .xorReg x y => formatXYN 0x8 (regField x) (regField y) 0x3
  | .addReg x y => formatXYN 0x8 (regField x) (regField y) 0x4
  | .subReg x y => formatXYN 0x8 (regField x) (regField y) 0x5
  | .shr x y => formatXYN 0x8 (regField x) (regField y) 0x6
  | .subnReg x y => formatXYN 0x8 (regField x) (regField y) 0x7
  | .shl x y => formatXYN 0x8 (regField x) (regField y) 0xE
  | .ldI nnn => formatA 0xA nnn
  | .jpV0 nnn => formatA 0xB nnn
  | .rnd x kk => formatXK 0xC (regField x) kk
  | .drw x y n => formatXYN 0xD (regField x) (regField y) n
  | .skp x => formatXK 0xE (regField x) 0x9E
  | .sknp x => formatXK 0xE (regField x) 0xA1
  | .ldVxDT x => formatXK 0xF (regField x) 0x07
  | .ldVxK x => formatXK 0xF (regField x) 0x0A
  | .ldDTVx x => formatXK 0xF (regField x) 0x15
  | .ldSTVx x => formatXK 0xF (regField x) 0x18
  | .addI x => formatXK 0xF (regField x) 0x1E
  | .ldF x => formatXK 0xF (regField x) 0x29
  | .ldB x => formatXK 0xF (regField x) 0x33
  | .stBlock x => formatXK 0xF (regField x) 0x55
  | .ldBlock x => formatXK 0xF (regField x) 0x65

/-- A row of the opcode table as its match and mask (R66): a word selects the row when its masked bits equal `value`. -/
structure OpcodeRow where
  value : Word
  mask  : Word
  deriving DecidableEq, Repr

/-- R66: "A word `op` selects a row when `(op & mask) == match`." -/
def OpcodeRow.selects (r : OpcodeRow) (op : Word) : Bool := (op &&& r.mask) == r.value

/-- The row of the opcode table that stands for each instruction (columns match and mask of R66). -/
def opcodeRow : Instr → OpcodeRow
  | .cls _ => ⟨0x00E0, 0xF0FF⟩
  | .ret _ => ⟨0x00EE, 0xF0FF⟩
  | .jp _ => ⟨0x1000, 0xF000⟩
  | .call _ => ⟨0x2000, 0xF000⟩
  | .seImm _ _ => ⟨0x3000, 0xF000⟩
  | .sneImm _ _ => ⟨0x4000, 0xF000⟩
  | .seReg _ _ _ => ⟨0x5000, 0xF000⟩
  | .sneReg _ _ _ => ⟨0x9000, 0xF000⟩
  | .ldImm _ _ => ⟨0x6000, 0xF000⟩
  | .addImm _ _ => ⟨0x7000, 0xF000⟩
  | .ldReg _ _ => ⟨0x8000, 0xF00F⟩
  | .orReg _ _ => ⟨0x8001, 0xF00F⟩
  | .andReg _ _ => ⟨0x8002, 0xF00F⟩
  | .xorReg _ _ => ⟨0x8003, 0xF00F⟩
  | .addReg _ _ => ⟨0x8004, 0xF00F⟩
  | .subReg _ _ => ⟨0x8005, 0xF00F⟩
  | .shr _ _ => ⟨0x8006, 0xF00F⟩
  | .subnReg _ _ => ⟨0x8007, 0xF00F⟩
  | .shl _ _ => ⟨0x800E, 0xF00F⟩
  | .ldI _ => ⟨0xA000, 0xF000⟩
  | .jpV0 _ => ⟨0xB000, 0xF000⟩
  | .rnd _ _ => ⟨0xC000, 0xF000⟩
  | .drw _ _ _ => ⟨0xD000, 0xF000⟩
  | .skp _ => ⟨0xE09E, 0xF0FF⟩
  | .sknp _ => ⟨0xE0A1, 0xF0FF⟩
  | .ldVxDT _ => ⟨0xF007, 0xF0FF⟩
  | .ldVxK _ => ⟨0xF00A, 0xF0FF⟩
  | .ldDTVx _ => ⟨0xF015, 0xF0FF⟩
  | .ldSTVx _ => ⟨0xF018, 0xF0FF⟩
  | .addI _ => ⟨0xF01E, 0xF0FF⟩
  | .ldF _ => ⟨0xF029, 0xF0FF⟩
  | .ldB _ => ⟨0xF033, 0xF0FF⟩
  | .stBlock _ => ⟨0xF055, 0xF0FF⟩
  | .ldBlock _ => ⟨0xF065, 0xF0FF⟩

/-- The 34 rows of the opcode table in its order (R66), each taken from one instruction of the row. -/
def opcodeTable : List OpcodeRow :=
  ([.cls 0, .ret 0, .jp 0, .call 0, .seImm 0 0, .sneImm 0 0, .seReg 0 0 0, .sneReg 0 0 0, .ldImm 0 0, .addImm 0 0]
    ++ [.ldReg 0 0, .orReg 0 0, .andReg 0 0, .xorReg 0 0, .addReg 0 0, .subReg 0 0, .shr 0 0, .subnReg 0 0, .shl 0 0]
    ++ [.ldI 0, .jpV0 0, .rnd 0 0, .drw 0 0 0, .skp 0, .sknp 0]
    ++ [.ldVxDT 0, .ldVxK 0, .ldDTVx 0, .ldSTVx 0, .addI 0, .ldF 0, .ldB 0, .stBlock 0, .ldBlock 0] : List Instr).map opcodeRow

/-- The word whose bits 0 to `nbits - 1` are those of `w` and whose other bits are 0. -/
def tableWord (nbits w : Nat) : Word := .ofNat 16 (w % 2 ^ nbits)

/-- The instruction the decoder reads from the instruction whose bits are `w`, numbered as the opcode table numbers them,
laid out in memory as the hardware stores it. -/
def decodeTableWord (nbits w : Nat) : Option Instr :=
  match decodeBytes (bytesOfWord (tableWord nbits w)) with
  | .instr i _ => some i
  | .unrecognizedOpcode _ => none
  | .truncated => none

end Sys2Proof
end

