-- ==== Sys2Proof/Config.lean ====
section
/-! DEFINITION. The sizes of the machine (00_scope.md R4), the type of the parameter DRAW_WRAP (R5) and the free value.
The VALUES of the two open parameters stand in Machine/Params.lean, where a later repair may mend them. -/

namespace Sys2Proof.Config

/-- MEM_SIZE: bytes of memory, addresses 0x000 to 0xFFF (R4). -/
def memSize : Nat := 4096

/-- PROGRAM_BASE and the reset value of `pc` (R4). -/
def programBase : Nat := 0x200

/-- MAX_IMAGE: the largest program image, 4096 - 0x200 bytes (R4). -/
def maxImage : Nat := 3584

/-- GLYPH_BYTES: the glyph table fills addresses 0 to 79 (R4). -/
def glyphBytes : Nat := 80

/-- FB_W: columns of the framebuffer (R4). -/
def fbWidth : Nat := 64

/-- FB_H: rows of the framebuffer (R4). -/
def fbHeight : Nat := 32

/-- The number of framebuffer cells, 64 * 32 (R4). -/
def fbCells : Nat := 2048

/-- The parameter DRAW_WRAP: how a sprite wraps at the right edge (R5, 42_display.md R124). -/
inductive DrawWrap where
  /-- The flattened index modulo 2048: a pixel past column 63 lands in the next row. -/
  | flat
  /-- Columns modulo 64 and rows modulo 32, independently. -/
  | independent
  deriving DecidableEq, Repr

/-- FREE VALUE: the byte drawn by the `k`-th execution of Random AND immediate (41_alu.md R113). It has no body that a
proof could see: whatever is proved holds for every byte (log 4). -/
opaque freeByte : Nat → Byte

end Sys2Proof.Config
end

