-- ==== Sys2Proof/Machine/Params.lean ====
section
/-! DEFINITION. The values of the two parameters the spec leaves open (00_scope.md R5): DRAW_WRAP and GLYPH_TABLE. -/

namespace Sys2Proof.Config

/-- DRAW_WRAP: "this hardware takes `flat`" (00_scope.md R5, 92_eei_decisions.md D10; log 3). -/
def drawWrap : DrawWrap := .flat

/-- GLYPH_TABLE by digit, five bytes each, row 0 first: the default of 10_state.md R31, PRESUMED (log 2). -/
def glyphRows : List (List Byte) :=
  [[0xF0, 0x90, 0x90, 0x90, 0xF0], [0x20, 0x60, 0x20, 0x20, 0x70], [0xF0, 0x10, 0xF0, 0x80, 0xF0],
    [0xF0, 0x10, 0xF0, 0x10, 0xF0]]
  ++ [[0x90, 0x90, 0xF0, 0x10, 0x10], [0xF0, 0x80, 0xF0, 0x10, 0xF0], [0xF0, 0x80, 0xF0, 0x90, 0xF0],
    [0xF0, 0x10, 0x20, 0x40, 0x40]]
  ++ [[0xF0, 0x90, 0xF0, 0x90, 0xF0], [0xF0, 0x90, 0xF0, 0x10, 0xF0], [0xF0, 0x90, 0xF0, 0x90, 0x90],
    [0xE0, 0x90, 0xE0, 0x90, 0xE0]]
  ++ [[0xF0, 0x80, 0x80, 0x80, 0xF0], [0xE0, 0x90, 0x90, 0x90, 0xE0], [0xF0, 0x80, 0xF0, 0x80, 0xF0],
    [0xF0, 0x80, 0xF0, 0x80, 0x80]]

/-- Byte `row` of the glyph of digit `d` (10_state.md R30). -/
def glyphByte (d row : Nat) : Byte := (glyphRows.getD d []).getD row 0

end Sys2Proof.Config
end

