-- ==== Sys2Proof/Machine/Memory.lean ====
section
/-! DEFINITION. Memory: 4096 bytes (10_state.md R23, 20_memory.md R45 to R48), held as the canonical list of the bytes that
differ from the reset contents (log 17): addresses strictly rising and below 4096, no byte equal to its reset byte. -/

namespace Sys2Proof.Machine

open Sys2Proof

/-- The bytes that differ from the reset contents, by rising address. -/
abbrev Memory := List Host.Cell

/-- What an unlisted address reads as: the reset contents of 10_state.md R29, the glyph table at 0x000 to 0x04F with
glyph d at 5 * d (R30) and 0x00 above it. -/
def resetByte (a : Nat) : Byte :=
  if a < Config.glyphBytes then Config.glyphByte (a / 5) (a % 5) else 0

/-- One byte of memory (20_memory.md R45). -/
def Memory.read : Memory → Nat → Byte
  | [], a => resetByte a
  | (k, c) :: m, a => if k = a then c else Memory.read m a

/-- A cell put in front of a list, unless its byte is the reset byte of its address. -/
def Memory.cons (a : Nat) (b : Byte) (m : Memory) : Memory :=
  if b = resetByte a then m else (a, b) :: m

/-- The list with address `a` reading `b`, kept sorted. -/
def Memory.put : Memory → Nat → Byte → Memory
  | [], a, b => Memory.cons a b []
  | (k, c) :: m, a, b =>
    if a < k then Memory.cons a b ((k, c) :: m)
    else if a = k then Memory.cons a b m
    else (k, c) :: Memory.put m a b

/-- A store of one byte (20_memory.md R45). An address above 0xFFF is no address and nothing is stored there (R46); the
handlers fault before they would reach one. -/
def Memory.write (m : Memory) (a : Nat) (b : Byte) : Memory :=
  if a < Config.memSize then Memory.put m a b else m

/-- The canonical form from address `lo` on. -/
def Memory.wfFrom : Nat → Memory → Bool
  | _, [] => true
  | lo, (k, c) :: m => decide (lo ≤ k) && decide (k < Config.memSize) && (c != resetByte k) && Memory.wfFrom (k + 1) m

/-- The canonical form of a memory. -/
def Memory.wf (m : Memory) : Bool := Memory.wfFrom 0 m

/-- `n` bytes at ascending addresses from `a` (20_memory.md R41, R43). -/
def Memory.readBytes (m : Memory) (a n : Nat) : List Byte := (List.range n).map fun k => m.read (a + k)

/-- Bytes stored one after the other at ascending addresses from `a` (20_memory.md R41, R43). -/
def Memory.writeBytes : Memory → Nat → List Byte → Memory
  | m, _, [] => m
  | m, a, b :: bs => Memory.writeBytes (m.write a b) (a + 1) bs

/-- The instruction word at `a`: the byte at the lower address supplies bits 15 to 8 (20_memory.md R40). -/
def Memory.readWord (m : Memory) (a : Nat) : Word := wordOfBytes (m.read a) (m.read (a + 1))

end Sys2Proof.Machine
end

