-- ==== Sys2Proof/Machine/State.lean ====
section
/-! DEFINITION. The state of the core (10_state.md section 1), the fault causes (R28), the reset state (R29). -/

namespace Sys2Proof.Machine

open Sys2Proof

/-- The fault causes of 10_state.md R28 and 60_exceptions.md R156. The latch holds one of them; its 3-bit code is
`FaultCause.code` (Ops.lean). Code 7 is never written and has no constructor. -/
inductive FaultCause where
  /-- Code 0: no fault has occurred; the core runs. -/
  | none
  /-- Code 1, raised by decode (R157). -/
  | unrecognizedOpcode
  /-- Code 2, raised by Call subroutine (R158). -/
  | stackOverflow
  /-- Code 3, raised by Return from subroutine (R159). -/
  | stackUnderflow
  /-- Code 4, raised by the fetch (R160). -/
  | pcOutOfRange
  /-- Code 5, raised by Draw sprite, Store BCD and the block instructions (R161). -/
  | memoryOutOfRange
  /-- Code 6, raised by the key skips (R162). -/
  | keyIndexOutOfRange
  deriving DecidableEq, Repr

/-- Reasons for the outcome `fault`, in which a machine stops without a next state. There are NONE: "every state of this
machine has a defined `Cycle()`" (93_implementation_defined.md part 1). The faults of the spec are next states in which the
latch is written and the core is halted (60_exceptions.md R152 to R155; log 6). -/
inductive Fault where
  deriving DecidableEq, Repr

/-- Reasons for the outcome `refused`. -/
inductive Refusal where
  /-- Raised only by an arm of `exec` whose instruction has no meaning yet; no arm is left that raises it. Safe. -/
  | notModelled (mnemonic : String)
  deriving DecidableEq, Repr

/-- Every piece of state of the core. -/
structure State where
  /-- `V[0]` to `V[15]` (10_state.md R10); `V[15]` is the flag (R11). -/
  v : Vector Byte 16
  /-- The program counter (R13). -/
  pc : Word
  /-- The index register `I` (R15). -/
  idx : Addr
  /-- The return stack, a register file of its own (R16). -/
  stack : Vector Word 16
  /-- The stack pointer, 0 to 16: the next free slot (R17). -/
  sp : Fin 17
  /-- The delay timer `DT` (R18). -/
  dt : Byte
  /-- The sound timer `ST` (R19). -/
  st : Byte
  /-- The framebuffer (R20). -/
  fb : Framebuffer
  /-- The redraw-needed flag (R21). -/
  dirty : Bool
  /-- The key levels, true being pressed (R22). -/
  key : Vector Bool 16
  /-- Memory (R23). -/
  mem : Memory
  /-- `fault_cause` (R28). -/
  faultCause : FaultCause
  /-- `fault_pc` (R28). -/
  faultPc : Word
  /-- `fault_info` (R28). -/
  faultInfo : Word
  /-- The MODEL's own counter of random bytes drawn, which selects the next free value (41_alu.md R113; logs 4, 5). -/
  draws : Nat
  deriving DecidableEq, Repr

/-- The state after `initialize` (10_state.md R29). The glyph table needs no cell: an unlisted address reads as its reset
byte. `draws` is a DESIGN CHOICE (log 5). -/
def State.reset : State where
  v := Vector.replicate 16 0
  pc := 0x0200
  idx := 0
  stack := Vector.replicate 16 0
  sp := 0
  dt := 0
  st := 0
  fb := Vector.replicate 32 0
  dirty := false
  key := Vector.replicate 16 false
  mem := []
  faultCause := .none
  faultPc := 0
  faultInfo := 0
  draws := 0

end Sys2Proof.Machine
end

