-- ==== Sys2Proof/Machine/Ops.lean ====
section
/-! DEFINITION. The shared operations of the meanings. A meaning is a function of the state at the START of the cycle
(`s.pc` is `pc0` of 60_exceptions.md R150): it advances `pc`, does its body and completes the cycle, or it raises a fault
(log 19). -/

namespace Sys2Proof.Machine

open Sys2Proof

/-- How a cycle ends: always `next` on this machine. -/
abbrev Outcome := Host.Outcome State Fault Refusal

/-- Read of a general register; none is hard-wired (10_state.md R10). -/
def State.reg (s : State) (x : RegNum) : Byte := s.v[x]

/-- Write of a general register (10_state.md R10). -/
def State.setReg (s : State) (x : RegNum) (b : Byte) : State := { s with v := s.v.set x b }

/-- `pc` is advanced by 2 before the handler body runs (30_encoding.md R64). -/
def State.advance (s : State) : State := { s with pc := s.pc + 2 }

/-- `pc` is set to an absolute address (30_encoding.md R64). -/
def State.jumpTo (s : State) (target : Word) : State := { s with pc := target }

/-- The skip of 00_scope.md R7: 2 more when the condition holds. -/
def State.skipIf (s : State) (c : Bool) : State := if c then { s with pc := s.pc + 2 } else s

/-- The replay of the key wait: `pc` goes back to this instruction (43_keypad_timer.md R133). -/
def State.replay (s : State) : State := { s with pc := s.pc - 2 }

/-- One count of a timer, which never goes below zero (60_exceptions.md R151). -/
def countDown (t : Byte) : Byte := if t = 0 then 0 else t - 1

/-- The end of a completed cycle: both timers count, independently, on the values the handler left (R151). -/
def State.tick (s : State) : State := { s with dt := countDown s.dt, st := countDown s.st }

/-- A cycle that completes with the state its handler left (R150). -/
def complete (t : State) : Outcome := .next t.tick

/-- The code of a fault cause (60_exceptions.md R156). -/
def FaultCause.code : FaultCause → BitVec 3
  | .none => 0
  | .unrecognizedOpcode => 1
  | .stackOverflow => 2
  | .stackUnderflow => 3
  | .pcOutOfRange => 4
  | .memoryOutOfRange => 5
  | .keyIndexOutOfRange => 6

/-- `raise` (60_exceptions.md R152, R153), from the state `s` BEFORE the cycle: everything the cycle did is undone, and the
latch is written, `fault_pc` with `pc0`. Nothing else changes: no vector, no mode, no timer decrement. -/
def State.raise (s : State) (cause : FaultCause) (info : Word) : State :=
  { s with faultCause := cause, faultPc := s.pc, faultInfo := info }

/-- A cycle that faults. There is no return from a fault (R155, R166): only `initialize` (HostOps.lean) leaves one. -/
def trap (cause : FaultCause) (info : Word) (s : State) : Outcome := .next (s.raise cause info)

/-- Halted: the latch holds a fault (60_exceptions.md R154). -/
def State.halted (s : State) : Bool := s.faultCause != .none

/-- The push of Call: write the slot, increment `sp`; none when the stack is full (40_control.md R83). -/
def State.push (s : State) (w : Word) : Option State :=
  if h : s.sp.val < 16 then
    some { s with stack := s.stack.set s.sp.val w, sp := ⟨s.sp.val + 1, by omega⟩ }
  else none

/-- The pop of Return: decrement `sp`, read the slot, which keeps its value; none when the stack is empty
(40_control.md R81, 10_state.md R16). -/
def State.pop (s : State) : Option (Word × State) :=
  if h : 0 < s.sp.val then
    some (s.stack[s.sp.val - 1], { s with sp := ⟨s.sp.val - 1, by omega⟩ })
  else none

/-- The level of a key (10_state.md R22). -/
def State.keyDown (s : State) (k : KeyNum) : Bool := s.key[k]

/-- The lowest-indexed pressed key (43_keypad_timer.md R133). -/
def State.lowestKey (s : State) : Option KeyNum := (List.finRange 16).find? s.keyDown

/-- A cell of the framebuffer: cell k is column k mod 64 of row k div 64 (10_state.md R20). -/
def cellAt (fb : Framebuffer) (k : Nat) : Bool := (fb[k / 64]?.getD 0).getLsbD (k % 64)

/-- `fb[k] <- fb[k] ^ 1` (42_display.md R122). -/
def flipCell (fb : Framebuffer) (k : Nat) : Framebuffer :=
  fb.setIfInBounds (k / 64) (fb[k / 64]?.getD 0 ^^^ BitVec.twoPow 64 (k % 64))

/-- Every cell unset (42_display.md R121). -/
def clearScreen : Framebuffer := Vector.replicate 32 0

end Sys2Proof.Machine
end

