-- ==== Sys2Proof/Machine/Flags.lean ====
section
/-! DEFINITION. The flag computations (10_state.md R11, 41_alu.md R107 to R112). The flag is `V[15]`. -/

namespace Sys2Proof.Machine

open Sys2Proof

/-- The flag register (10_state.md R11). -/
def flagReg : RegNum := 15

/-- A comparison used as a value is 1 when true and 0 when false (00_scope.md R7). -/
def flagByte (c : Bool) : Byte := if c then 1 else 0

/-- The carry out of `a + b`: `b > 255 - a`, in the integers (41_alu.md R107). -/
def carryOut (a b : Byte) : Bool := decide (b.toNat > 255 - a.toNat)

/-- NOT borrow of `a - b`: 1 when `a >= b`, also when equal (41_alu.md R108, R110). -/
def notBorrow (a b : Byte) : Bool := decide (a.toNat ≥ b.toNat)

/-- The bit that a right shift shifts out: bit 0 (41_alu.md R109). -/
def shiftedOutRight (a : Byte) : Bool := a.getLsbD 0

/-- The bit that a left shift shifts out: bit 7 (41_alu.md R111). -/
def shiftedOutLeft (a : Byte) : Bool := a.getLsbD 7

/-- The flag written. -/
def State.setFlag (s : State) (c : Bool) : State := s.setReg flagReg (flagByte c)

/-- The two lines of the arithmetic instructions, in order: the flag is written first, and the result is computed from the
register file AFTER that write (41_alu.md R112, log 10). -/
def State.flagThenResult (s : State) (x : RegNum) (flag : Bool) (result : State → Byte) : State :=
  (s.setFlag flag).setReg x (result (s.setFlag flag))

end Sys2Proof.Machine
end

