-- ==== Sys2Proof/Machine/Alu.lean ====
section
/-! DEFINITION. Register load, arithmetic, logic, shift and random (41_alu.md R100 to R113). -/

namespace Sys2Proof.Machine

open Sys2Proof

/-- Load immediate (R101). -/
def execLdImm (x : RegNum) (kk : Byte) (s : State) : Outcome := complete (s.advance.setReg x kk)

/-- Add immediate, modulo 256, no flag (R102). -/
def execAddImm (x : RegNum) (kk : Byte) (s : State) : Outcome := complete (s.advance.setReg x (s.reg x + kk))

/-- Move reg (R103). -/
def execLdReg (x y : RegNum) (s : State) : Outcome := complete (s.advance.setReg x (s.reg y))

/-- OR reg; no flag (R104). -/
def execOrReg (x y : RegNum) (s : State) : Outcome := complete (s.advance.setReg x (s.reg x ||| s.reg y))

/-- AND reg; no flag (R105). -/
def execAndReg (x y : RegNum) (s : State) : Outcome := complete (s.advance.setReg x (s.reg x &&& s.reg y))

/-- XOR reg; no flag (R106). -/
def execXorReg (x y : RegNum) (s : State) : Outcome := complete (s.advance.setReg x (s.reg x ^^^ s.reg y))

/-- Add reg with carry (R107, R112). -/
def execAddReg (x y : RegNum) (s : State) : Outcome :=
  complete (s.advance.flagThenResult x (carryOut (s.reg x) (s.reg y)) fun t => t.reg x + t.reg y)

/-- Sub reg with borrow, x - y (R108, R112). -/
def execSubReg (x y : RegNum) (s : State) : Outcome :=
  complete (s.advance.flagThenResult x (notBorrow (s.reg x) (s.reg y)) fun t => t.reg x - t.reg y)

/-- Shift right by one; y is not used (R109, R112). -/
def execShr (x : RegNum) (s : State) : Outcome :=
  complete (s.advance.flagThenResult x (shiftedOutRight (s.reg x)) fun t => t.reg x >>> 1)

/-- Sub reg reversed, y - x (R110, R112). -/
def execSubnReg (x y : RegNum) (s : State) : Outcome :=
  complete (s.advance.flagThenResult x (notBorrow (s.reg y) (s.reg x)) fun t => t.reg y - t.reg x)

/-- Shift left by one; y is not used (R111, R112). -/
def execShl (x : RegNum) (s : State) : Outcome :=
  complete (s.advance.flagThenResult x (shiftedOutLeft (s.reg x)) fun t => t.reg x <<< 1)

/-- Random AND immediate with the drawn byte `r` (R113). -/
def State.drawInto (s : State) (r : Byte) (x : RegNum) (kk : Byte) : State :=
  { s.setReg x (r &&& kk) with draws := s.draws + 1 }

/-- Random AND immediate (R113): each execution consumes one fresh byte, a free value (log 4). -/
def execRnd (x : RegNum) (kk : Byte) (s : State) : Outcome :=
  complete (s.advance.drawInto (Config.freeByte s.draws) x kk)

end Sys2Proof.Machine
end

