-- ==== Sys2Proof/Machine/Operands.lean ====
section
/-! DEFINITION. The operand forms (30_encoding.md R65, 44_index_memory.md R146): register direct, immediate, absolute, and
`mem[I + k]`; and the arithmetic on addresses, all in the integers (00_scope.md R7, log 13). -/

namespace Sys2Proof.Machine

open Sys2Proof

/-- A 12-bit absolute address as a `pc` value, zero-extended (30_encoding.md R65). -/
def absolute (nnn : Addr) : Word := nnn.setWidth 16

/-- The target of Jump relative to reg0: an integer sum, not reduced modulo 4096 (40_control.md R88). -/
def regRelative (v0 : Byte) (nnn : Addr) : Word := .ofNat 16 (v0.toNat + nnn.toNat)

/-- A byte value as `fault_info`, zero-extended (60_exceptions.md R156). -/
def byteInfo (b : Byte) : Word := b.setWidth 16

/-- The effective address `I + k`, an integer that is not wrapped (20_memory.md R46, 44_index_memory.md R146). -/
def State.effAddr (s : State) (k : Nat) : Nat := s.idx.toNat + k

/-- `I` advanced by `k`, modulo 4096 (10_state.md R15, log 12). -/
def indexPlus (i : Addr) (k : Nat) : Addr := .ofNat 12 (i.toNat + k)

/-- The address of the glyph of a digit value: an integer product, the value not masked (44_index_memory.md R142). -/
def glyphAddr (b : Byte) : Addr := .ofNat 12 (b.toNat * 5)

/-- Hundreds, tens and units of a byte, in the order of ascending addresses (44_index_memory.md R143). -/
def bcdDigits (b : Byte) : List Byte :=
  [.ofNat 8 (b.toNat / 100), .ofNat 8 (b.toNat / 10 % 10), .ofNat 8 (b.toNat % 10)]

/-- `V[0]` to `V[x]`, the field x counting registers (44_index_memory.md R144). -/
def State.regBlock (s : State) (x : RegNum) : List Byte := s.v.toList.take (x.val + 1)

/-- `V[0]` to `V[x]` replaced by the bytes at `a`, `a + 1`, ... (44_index_memory.md R145). -/
def State.loadRegBlock (s : State) (x : RegNum) (a : Nat) : State :=
  { s with v := Vector.ofFn fun r : RegNum => if r ≤ x then s.mem.read (a + r.val) else s.v[r] }

/-- A register value as a key index, none when it is above 15; it is not masked (43_keypad_timer.md R130). -/
def keyIndex (b : Byte) : Option KeyNum := if h : b.toNat < 16 then some ⟨b.toNat, h⟩ else none

/-- The one test of an instruction that accesses memory, on the highest address it touches and before any access: if that
address does not exist, `MemoryOutOfRange` with the address, else the cycle completes with `t` (60_exceptions.md R161). -/
def completeWithin (last : Nat) (t : State) (s : State) : Outcome :=
  if last < Config.memSize then complete t else trap .memoryOutOfRange (.ofNat 16 last) s

end Sys2Proof.Machine
end

