-- ==== Sys2Proof/Machine/Control.lean ====
section
/-! DEFINITION. Control transfer (40_control.md R80 to R90): return, jumps, call, conditional skips. -/

namespace Sys2Proof.Machine

open Sys2Proof

/-- Return from subroutine (R81). `fault_info` is the fetched word, ignored bits included (60_exceptions.md R159, log 9). -/
def execRet (ignored : Nibble) (s : State) : Outcome :=
  match s.pop with
  | some (target, t) => complete (t.jumpTo target)
  | none => trap .stackUnderflow (encode (.ret ignored)) s

/-- Jump absolute (R82). -/
def execJp (nnn : Addr) (s : State) : Outcome := complete (s.jumpTo (absolute nnn))

/-- Call subroutine (R83): the pushed address is that of the instruction after the call. -/
def execCall (nnn : Addr) (s : State) : Outcome :=
  match s.push s.advance.pc with
  | some t => complete (t.jumpTo (absolute nnn))
  | none => trap .stackOverflow (encode (.call nnn)) s

/-- Skip if reg==imm (R84). -/
def execSeImm (x : RegNum) (kk : Byte) (s : State) : Outcome := complete (s.advance.skipIf (s.reg x == kk))

/-- Skip if reg!=imm (R85). -/
def execSneImm (x : RegNum) (kk : Byte) (s : State) : Outcome := complete (s.advance.skipIf (s.reg x != kk))

/-- Skip if regX==regY (R86). -/
def execSeReg (x y : RegNum) (s : State) : Outcome := complete (s.advance.skipIf (s.reg x == s.reg y))

/-- Skip if regX!=regY (R87). -/
def execSneReg (x y : RegNum) (s : State) : Outcome := complete (s.advance.skipIf (s.reg x != s.reg y))

/-- Jump relative to reg0 (R88): the base is always `V[0]`. -/
def execJpV0 (nnn : Addr) (s : State) : Outcome := complete (s.jumpTo (regRelative (s.reg 0) nnn))

end Sys2Proof.Machine
end

