-- ==== Sys2Proof/Machine/Display.lean ====
section
/-! DEFINITION. Display: clear screen and draw sprite (42_display.md R120 to R124). -/

namespace Sys2Proof.Machine

open Sys2Proof

/-- Clear screen (R121): `dirty` is set unconditionally. -/
def execCls (s : State) : Outcome := complete { s.advance with fb := clearScreen, dirty := true }

/-- The cell of sprite pixel (`row`, `col`) for a sprite at (`vx`, `vy`), in the integers (R122, R124). -/
def targetCell (w : Config.DrawWrap) (vx vy row col : Nat) : Nat :=
  match w with
  | .flat => ((vx + col) + (vy + row) * 64) % 2048
  | .independent => (vx + col) % 64 + (vy + row) % 32 * 64

/-- The framebuffer under the pen, and whether a plotted cell was already set. -/
structure Canvas where
  fb  : Framebuffer
  hit : Bool
  deriving DecidableEq, Repr

/-- One set pixel: collision test, then XOR (R122). -/
def Canvas.plot (c : Canvas) (k : Nat) : Canvas := ⟨flipCell c.fb k, c.hit || cellAt c.fb k⟩

/-- One sprite row: bit 7 is column 0; a 0 bit does nothing (R120, R122). -/
def Canvas.plotRow (w : Config.DrawWrap) (vx vy row : Nat) (b : Byte) (c : Canvas) : Canvas :=
  (List.range 8).foldl (fun c col => if b.getLsbD (7 - col) then c.plot (targetCell w vx vy row col) else c) c

/-- The sprite rows `bytes`, the first of them being row `row` (R122). -/
def Canvas.plotRows (w : Config.DrawWrap) (vx vy : Nat) : Nat → List Byte → Canvas → Canvas
  | _, [], c => c
  | row, b :: bs, c => Canvas.plotRows w vx vy (row + 1) bs (c.plotRow w vx vy row b)

/-- The body of Draw sprite (R122): both coordinates are read before the flag is reset (log 11), `V[15]` becomes the
collision, `dirty` is set unconditionally. -/
def State.drawSprite (s : State) (x y : RegNum) (n : Nat) : State :=
  let c := Canvas.plotRows Config.drawWrap (s.reg x).toNat (s.reg y).toNat 0 (s.mem.readBytes s.idx.toNat n) ⟨s.fb, false⟩
  { s.setFlag c.hit with fb := c.fb, dirty := true }

/-- Draw sprite (R122). The last byte of the sprite is at `I + n - 1`; with n = 0 no byte is touched, and the difference
taken in the naturals is at most 0xFFE. -/
def execDrw (x y : RegNum) (n : Nibble) (s : State) : Outcome :=
  completeWithin (s.effAddr n.toNat - 1) (s.advance.drawSprite x y n.toNat) s

end Sys2Proof.Machine
end

