-- ==== Sys2Proof/Machine/IndexMemory.lean ====
section
/-! DEFINITION. Index register and memory instructions (44_index_memory.md R140 to R146). -/

namespace Sys2Proof.Machine

open Sys2Proof

/-- Load index (R140). -/
def execLdI (nnn : Addr) (s : State) : Outcome := complete { s.advance with idx := nnn }

/-- Add reg to index, modulo 4096, no flag (R141). -/
def execAddI (x : RegNum) (s : State) : Outcome := complete { s.advance with idx := indexPlus s.idx (s.reg x).toNat }

/-- Load glyph address (R142). -/
def execLdF (x : RegNum) (s : State) : Outcome := complete { s.advance with idx := glyphAddr (s.reg x) }

/-- Store BCD (R143): `I` is not changed. -/
def execLdB (x : RegNum) (s : State) : Outcome :=
  completeWithin (s.effAddr 2) { s.advance with mem := s.mem.writeBytes s.idx.toNat (bcdDigits (s.reg x)) } s

/-- Store register block (R144): `I` is advanced past the block. -/
def execStBlock (x : RegNum) (s : State) : Outcome :=
  completeWithin (s.effAddr x.val)
    { s.advance with mem := s.mem.writeBytes s.idx.toNat (s.regBlock x), idx := indexPlus s.idx (x.val + 1) } s

/-- Load register block (R145): `I` is advanced past the block, after the loads. -/
def execLdBlock (x : RegNum) (s : State) : Outcome :=
  completeWithin (s.effAddr x.val)
    { s.advance.loadRegBlock x s.idx.toNat with idx := indexPlus s.idx (x.val + 1) } s

end Sys2Proof.Machine
end

