-- ==== Sys2Proof/Machine/KeypadTimer.lean ====
section
/-! DEFINITION. Keypad and timer instructions (43_keypad_timer.md R130 to R136). -/

namespace Sys2Proof.Machine

open Sys2Proof

/-- A skip on the level of the key that a register names (R130, R131): `KeyIndexOutOfRange` above 15. -/
def skipOnKey (x : RegNum) (level : Bool) (s : State) : Outcome :=
  match keyIndex (s.reg x) with
  | some k => complete (s.advance.skipIf (s.keyDown k == level))
  | none => trap .keyIndexOutOfRange (byteInfo (s.reg x)) s

/-- Skip if key pressed (R130). -/
def execSkp (x : RegNum) (s : State) : Outcome := skipOnKey x true s

/-- Skip if key not pressed (R131). -/
def execSknp (x : RegNum) (s : State) : Outcome := skipOnKey x false s

/-- Load delay timer into reg: the value before this cycle's decrement (R132). -/
def execLdVxDT (x : RegNum) (s : State) : Outcome := complete (s.advance.setReg x s.dt)

/-- A key number as a register value. -/
def keyByte (k : KeyNum) : Byte := .ofNat 8 k.val

/-- Block until key pressed (R133): the lowest pressed key, or a replay, which is a completed cycle. -/
def execLdVxK (x : RegNum) (s : State) : Outcome :=
  match s.lowestKey with
  | some k => complete (s.advance.setReg x (keyByte k))
  | none => complete s.advance.replay

/-- Set delay timer from reg (R134): the decrement of this cycle applies to the new value. -/
def execLdDTVx (x : RegNum) (s : State) : Outcome := complete { s.advance with dt := s.reg x }

/-- Set sound timer from reg (R135). -/
def execLdSTVx (x : RegNum) (s : State) : Outcome := complete { s.advance with st := s.reg x }

end Sys2Proof.Machine
end

