-- ==== Sys2Proof/Machine/Fetch.lean ====
section
/-! DEFINITION. The part of the cycle before the handler (60_exceptions.md R150): the halted test, the fetch test, the
fetch and the decoding, in that order (R163). -/

namespace Sys2Proof.Machine

open Sys2Proof

/-- The highest address an instruction can be fetched from (60_exceptions.md R160). -/
def lastFetchPc : Nat := 0xFFE

/-- The word at `pc` (20_memory.md R40). -/
def State.fetchWord (s : State) : Word := s.mem.readWord s.pc.toNat

/-- `pc` and `pc + 1` both exist (60_exceptions.md R160); `pc` may be odd (20_memory.md R42). -/
def State.pcInRange (s : State) : Bool := decide (s.pc.toNat ≤ lastFetchPc)

/-- What the start of a cycle leads to. -/
inductive Fetched where
  /-- The core is halted (R154). -/
  | halted
  /-- `pc` is above 0xFFE (R160). -/
  | pcOutOfRange
  /-- The fetched word selects no handler (R157). -/
  | unrecognized (op : Word)
  /-- An instruction was selected (R68). -/
  | instr (i : Instr)
  deriving DecidableEq, Repr

/-- The start of the cycle: halted test, fetch test, fetch, decode (R150, R163). -/
def State.fetch (s : State) : Fetched :=
  if s.halted then .halted
  else if s.pcInRange then
    match decodeWord s.fetchWord with
    | some i => .instr i
    | none => .unrecognized s.fetchWord
  else .pcOutOfRange

/-- The state made ready to fetch: the latch cleared if it holds a fault, `pc` at the entry point if it is out of range. -/
def State.fetchable (s : State) : State :=
  let t := if s.halted then { s with faultCause := .none, faultPc := 0, faultInfo := 0 } else s
  if t.pcInRange then t else { t with pc := .ofNat 16 Config.programBase }

/-- A word stored where the next cycle fetches, its first byte at the lower address (20_memory.md R40). -/
def State.storeFetchWord (s : State) (w : Word) : State :=
  { s.fetchable with mem := s.fetchable.mem.writeBytes s.fetchable.pc.toNat (bytesOfWord w) }

end Sys2Proof.Machine
end

