-- ==== Sys2Proof/Machine/Step.lean ====
section
/-! DEFINITION. `Cycle()` (60_exceptions.md R150), and the placing of a word for the next cycle. -/

namespace Sys2Proof.Machine

open Sys2Proof

/-- One cycle (60_exceptions.md R150, R172). A halted core does not change (R154). -/
def step (s : State) : Host.Outcome State Fault Refusal :=
  match s.fetch with
  | .halted => .next s
  | .pcOutOfRange => trap .pcOutOfRange s.pc s
  | .unrecognized op => trap .unrecognizedOpcode op s
  | .instr i => exec i s

/-- `s` with the instruction of a word, numbered as the opcode table numbers it, stored where the next step fetches
(log 14). On a running state with `pc` in range only memory changes. -/
def State.withFetchWord (s : State) (nbits w : Nat) : State := s.storeFetchWord (tableWord nbits w)

end Sys2Proof.Machine
end

