-- ==== Sys2Proof/Machine/HostOps.lean ====
section
/-! DEFINITION. The host's operations (60_exceptions.md R170 to R179), each one atomic element between two cycles (R179,
log 15), and runs that interleave them with cycles (R184). -/

namespace Sys2Proof.Machine

open Sys2Proof

/-- `initialize()` (R170): the reset state whatever the state was, and the only way out of a fault (R155). The model's
counter of drawn bytes goes on, so that no drawn byte is drawn twice (log 5). -/
def State.hostInit (s : State) : State := { State.reset with draws := s.draws }

/-- `load_program(bytes)` (R171): none when the image is rejected, that is longer than 3584 bytes (log 14). -/
def State.loadProgram (s : State) (image : List Byte) : Option State :=
  if image.length ≤ Config.maxImage then some { s with mem := s.mem.writeBytes Config.programBase image } else none

/-- The key of an integer index, none outside 0 to 15 (R173). -/
def keyOfInt (i : Int) : Option KeyNum := if h : 0 ≤ i ∧ i ≤ 15 then some ⟨i.toNat, by omega⟩ else none

/-- A key level set by the host; an index outside 0 to 15 is ignored (R173, R174). -/
def State.setKey (s : State) (i : Int) (down : Bool) : State :=
  match keyOfInt i with
  | some k => { s with key := s.key.set k.val down }
  | none => s

/-- `press_key(i)` (R173). -/
def State.pressKey (s : State) (i : Int) : State := s.setKey i true

/-- `release_key(i)` (R174). -/
def State.releaseKey (s : State) (i : Int) : State := s.setKey i false

/-- `clear_dirty()` (R176). -/
def State.clearDirty (s : State) : State := { s with dirty := false }

/-- The framebuffer read: a snapshot of the 2048 cells (R175). -/
def State.framebufferSnapshot (s : State) : List Bool := (List.range Config.fbCells).map (cellAt s.fb)

/-- The dirty flag read (R176). -/
def State.readDirty (s : State) : Bool := s.dirty

/-- The sound timer read (R177). -/
def State.readSoundTimer (s : State) : Byte := s.st

/-- The fault status read: `fault_cause` as its 3-bit code, `fault_pc`, `fault_info` (R178). -/
def State.readFaultLatch (s : State) : BitVec 3 × Word × Word := (s.faultCause.code, s.faultPc, s.faultInfo)

/-- The operations of the host that can change the state (the table of R179, less `cycle`). -/
inductive HostOp where
  | hostInit
  | loadProgram (image : List Byte)
  | pressKey (i : Int)
  | releaseKey (i : Int)
  | clearDirty
  deriving DecidableEq, Repr

/-- The effect of a host operation; a rejected load changes nothing (R171). -/
def HostOp.apply : HostOp → State → State
  | .hostInit, s => s.hostInit
  | .loadProgram image, s => (s.loadProgram image).getD s
  | .pressKey i, s => s.pressKey i
  | .releaseKey i, s => s.releaseKey i
  | .clearDirty, s => s.clearDirty

/-- An element of an execution: one cycle or one host operation (00_scope.md R6). -/
inductive Event where
  | cycle
  | host (op : HostOp)
  deriving DecidableEq, Repr

/-- The effect of one element. -/
def Event.run : Event → State → Outcome
  | .cycle, s => step s
  | .host op, s => .next (op.apply s)

/-- An execution: the elements one after the other (R179, R184). Of the three endings of R184, "faulted" is `State.halted`,
"stopped" is `Stopped` (Safety.lean), and "abandoned" is the end of the list. -/
def runEvents : List Event → State → Outcome
  | [], s => .next s
  | e :: es, s =>
    match e.run s with
    | .next t => runEvents es t
    | .fault r => .fault r
    | .refused r => .refused r

/-- The start of a run (70_reset_and_hazards.md R193): `initialize`, then `load_program`. -/
def boot (image : List Byte) : Option State := State.reset.loadProgram image

end Sys2Proof.Machine
end

