-- ==== Sys2Proof/Safety.lean ====
section
/-! DEFINITION. The terms in which claims are stated: the parts of the state and frames, the write tables of 10_state.md,
the fault of a cycle, the endings of a run, and the invariant. -/

namespace Sys2Proof.Machine

open Sys2Proof

/-- The parts of the state that a frame names. -/
inductive Part where
  | regs | pc | index | stack | timers | screen | dirty | keys | memory | latch | draws
  deriving DecidableEq, Repr

/-- A part is the same in two states; memory and screen are compared by reading. -/
def Part.Same (s t : State) : Part → Prop
  | .regs => ∀ r, t.reg r = s.reg r
  | .pc => t.pc = s.pc
  | .index => t.idx = s.idx
  | .stack => t.sp = s.sp ∧ t.stack = s.stack
  | .timers => t.dt = s.dt ∧ t.st = s.st
  | .screen => ∀ k, k < Config.fbCells → cellAt t.fb k = cellAt s.fb k
  | .dirty => t.dirty = s.dirty
  | .keys => ∀ k, t.keyDown k = s.keyDown k
  | .memory => ∀ a, t.mem.read a = s.mem.read a
  | .latch => t.faultCause = s.faultCause ∧ t.faultPc = s.faultPc ∧ t.faultInfo = s.faultInfo
  | .draws => t.draws = s.draws

/-- Every part that is not listed is the same in both states. -/
def UnchangedBut (written : List Part) (s t : State) : Prop := ∀ p, p ∉ written → p.Same s t

/-- Both timers counted once: a timer at 0 stays 0 (60_exceptions.md R151). -/
def TimersCounted (s t : State) : Prop := t.dt.toNat = s.dt.toNat - 1 ∧ t.st.toNat = s.st.toNat - 1

/-- The cycle of an ordinary instruction from `s` to `t`: `pc` moves to the next instruction, the timers count, and
nothing else changes but the listed parts (10_state.md R14, 60_exceptions.md R151). -/
structure Completes (written : List Part) (s t : State) : Prop where
  pc : t.pc = s.pc + 2
  timers : TimersCounted s t
  frame : UnchangedBut (.pc :: .timers :: written) s t

/-- Register `x` gets `b` and the other registers keep their values. -/
def WritesReg (x : RegNum) (b : Byte) (s t : State) : Prop := ∀ r, t.reg r = if r = x then b else s.reg r

/-- The state after a fault: the state before the cycle with the latch written (60_exceptions.md R152, R153). -/
def Faulted (cause : FaultCause) (info : Word) (s t : State) : Prop :=
  UnchangedBut [.latch] s t ∧ t.faultCause = cause ∧ t.faultPc = s.pc ∧ t.faultInfo = info

/-- The general registers an instruction may write (10_state.md R12 and the table of R11). -/
def mayWriteReg : Instr → RegNum → Bool
  | .ldImm x _, r | .addImm x _, r | .ldReg x _, r | .orReg x _, r | .andReg x _, r | .xorReg x _, r | .rnd x _, r
  | .ldVxDT x, r | .ldVxK x, r => r == x
  | .addReg x _, r | .subReg x _, r | .shr x _, r | .subnReg x _, r | .shl x _, r => r == x || r == flagReg
  | .drw _ _ _, r => r == flagReg
  | .ldBlock x, r => decide (r ≤ x)
  | .cls _, _ | .ret _, _ | .jp _, _ | .call _, _ | .seImm _ _, _ | .sneImm _ _, _ | .seReg _ _ _, _
  | .sneReg _ _ _, _ | .ldI _, _ | .jpV0 _, _ | .skp _, _ | .sknp _, _ | .ldDTVx _, _ | .ldSTVx _, _ | .addI _, _
  | .ldF _, _ | .ldB _, _ | .stBlock _, _ => false

/-- The parts of the state an instruction may write besides `pc`, the timers and the fault latch (the column "program
writes" of 10_state.md R24, with R12, R15, R16, R20, R21). -/
def mayWrite : Instr → List Part
  | .cls _ => [.screen, .dirty]
  | .drw _ _ _ => [.regs, .screen, .dirty]
  | .ret _ | .call _ => [.stack]
  | .jp _ | .jpV0 _ | .seImm _ _ | .sneImm _ _ | .seReg _ _ _ | .sneReg _ _ _ | .skp _ | .sknp _ | .ldDTVx _
  | .ldSTVx _ => []
  | .ldImm _ _ | .addImm _ _ | .ldReg _ _ | .orReg _ _ | .andReg _ _ | .xorReg _ _ | .addReg _ _ | .subReg _ _
  | .shr _ _ | .subnReg _ _ | .shl _ _ | .ldVxDT _ | .ldVxK _ => [.regs]
  | .rnd _ _ => [.regs, .draws]
  | .ldI _ | .addI _ | .ldF _ => [.index]
  | .ldB _ => [.memory]
  | .stBlock _ => [.memory, .index]
  | .ldBlock _ => [.regs, .index]

/-- How many bytes an instruction stores, from `I` upward (20_memory.md R43). -/
def storedCount : Instr → Nat
  | .ldB _ => 3
  | .stBlock x => x.val + 1
  | .cls _ | .ret _ | .jp _ | .call _ | .seImm _ _ | .sneImm _ _ | .seReg _ _ _ | .sneReg _ _ _ | .ldImm _ _
  | .addImm _ _ | .ldReg _ _ | .orReg _ _ | .andReg _ _ | .xorReg _ _ | .addReg _ _ | .subReg _ _ | .shr _ _
  | .subnReg _ _ | .shl _ _ | .ldI _ | .jpV0 _ | .rnd _ _ | .drw _ _ _ | .skp _ | .sknp _ | .ldVxDT _ | .ldVxK _
  | .ldDTVx _ | .ldSTVx _ | .addI _ | .ldF _ | .ldBlock _ => 0

/-- How many bytes of memory an instruction touches, from `I` upward, its fetch apart (20_memory.md R43). -/
def accessCount : Instr → Nat
  | .drw _ _ n => n.toNat
  | .ldB _ => 3
  | .stBlock x | .ldBlock x => x.val + 1
  | .cls _ | .ret _ | .jp _ | .call _ | .seImm _ _ | .sneImm _ _ | .seReg _ _ _ | .sneReg _ _ _ | .ldImm _ _
  | .addImm _ _ | .ldReg _ _ | .orReg _ _ | .andReg _ _ | .xorReg _ _ | .addReg _ _ | .subReg _ _ | .shr _ _
  | .subnReg _ _ | .shl _ _ | .ldI _ | .jpV0 _ | .rnd _ _ | .skp _ | .sknp _ | .ldVxDT _ | .ldVxK _ | .ldDTVx _
  | .ldSTVx _ | .addI _ | .ldF _ => 0

/-- The stack fault of an instruction (60_exceptions.md R158, R159); `fault_info` is the fetched word. -/
def stackFault (i : Instr) (op : Word) (s : State) : Option (FaultCause × Word) :=
  match i with
  | .call _ => if s.sp = 16 then some (.stackOverflow, op) else none
  | .ret _ => if s.sp = 0 then some (.stackUnderflow, op) else none
  | _ => none

/-- The key fault of an instruction (60_exceptions.md R162). -/
def keyFault (i : Instr) (s : State) : Option (FaultCause × Word) :=
  match i with
  | .skp x | .sknp x => if (s.reg x).toNat > 15 then some (.keyIndexOutOfRange, (s.reg x).setWidth 16) else none
  | _ => none

/-- The memory fault of an instruction: the highest address it touches is above 0xFFF (60_exceptions.md R161). -/
def memoryFault (i : Instr) (s : State) : Option (FaultCause × Word) :=
  if accessCount i > 0 ∧ s.idx.toNat + accessCount i - 1 > 0xFFF then
    some (.memoryOutOfRange, .ofNat 16 (s.idx.toNat + accessCount i - 1))
  else none

/-- The fault that the next cycle of a running core raises, if any: the fetch test, then the decode test, then the one
test of the handler (60_exceptions.md R156, R163). -/
def cycleFault (s : State) : Option (FaultCause × Word) :=
  if s.pc.toNat > 0xFFE then some (.pcOutOfRange, s.pc)
  else
    match decodeWord s.fetchWord with
    | none => some (.unrecognizedOpcode, s.fetchWord)
    | some i => stackFault i s.fetchWord s <|> memoryFault i s <|> keyFault i s

/-- A running core whose next word can be fetched and is the word of `i`. -/
structure Fetches (s : State) (i : Instr) : Prop where
  running : s.faultCause = .none
  inRange : s.pc.toNat ≤ 0xFFE
  decodes : decodeWord s.fetchWord = some i

/-- The ending "stopped" of 60_exceptions.md R184: the word at `pc` is a Jump absolute to itself. -/
def Stopped (s : State) : Prop := ∃ nnn : Addr, Fetches s (.jp nnn) ∧ nnn.toNat = s.pc.toNat

/-- `AwaitingKey` of 43_keypad_timer.md R136: the word at `pc` is a key wait and no key is pressed. -/
def AwaitingKey (x : RegNum) (s : State) : Prop := Fetches s (.ldVxK x) ∧ ∀ k, s.keyDown k = false

/-- The return addresses: every slot is at most 0x1000, a live one at least 2 (40_control.md R81, R83). -/
def StackBounded (s : State) : Prop :=
  ∀ k : Fin 16, s.stack[k].toNat ≤ 0x1000 ∧ (k.val < s.sp.val → 2 ≤ s.stack[k].toNat)

/-- What the fault latch says about the state it stopped in (60_exceptions.md R153, R156 to R162). -/
def LatchTrue (s : State) : Prop :=
  match s.faultCause with
  | .none => s.faultPc = 0 ∧ s.faultInfo = 0
  | .unrecognizedOpcode => s.faultPc = s.pc ∧ s.pc.toNat ≤ 0xFFE ∧ decodeWord s.faultInfo = none
  | .stackOverflow => s.faultPc = s.pc ∧ s.pc.toNat ≤ 0xFFE ∧ s.sp = 16 ∧ ∃ nnn, s.faultInfo = encode (.call nnn)
  | .stackUnderflow => s.faultPc = s.pc ∧ s.pc.toNat ≤ 0xFFE ∧ s.sp = 0 ∧ ∃ u, s.faultInfo = encode (.ret u)
  | .pcOutOfRange => s.faultPc = s.pc ∧ s.faultInfo = s.pc ∧ 0xFFE < s.pc.toNat
  | .memoryOutOfRange =>
    s.faultPc = s.pc ∧ s.pc.toNat ≤ 0xFFE ∧ 0x1000 ≤ s.faultInfo.toNat ∧ s.faultInfo.toNat ≤ 0x100E
  | .keyIndexOutOfRange =>
    s.faultPc = s.pc ∧ s.pc.toNat ≤ 0xFFE ∧ 16 ≤ s.faultInfo.toNat ∧ s.faultInfo.toNat ≤ 255

/-- The invariant: the part of 10_state.md R26 that the types do not carry (`pc` at most 0x10FE), the canonical form of
memory, the bounds of the return addresses, and the truth of the fault latch. -/
structure State.Inv (s : State) : Prop where
  mem : s.mem.wf = true
  pc : s.pc.toNat ≤ 0x10FE
  stack : StackBounded s
  latch : LatchTrue s

/-- Two states that agree except in stack slots at or above `sp` (10_state.md R16). -/
structure SameButDeadSlots (s t : State) : Prop where
  others : { t with stack := s.stack } = s
  live : ∀ k : Fin 16, k.val < s.sp.val → t.stack[k] = s.stack[k]

/-- The sprite pixel (`row`, `col`) is set: `mem[I + row][7 - col]`, `row` below `n` (42_display.md R120). -/
def SpritePixel (s : State) (n row col : Nat) : Prop :=
  row < n ∧ col < 8 ∧ (s.mem.read (s.idx.toNat + row)).getLsbD (7 - col) = true

/-- Cell `k` is a target of the sprite of `n` rows at (`V[x]`, `V[y]`), by the flat formula of 42_display.md R122
(DRAW_WRAP = flat, log 3). -/
def Plots (s : State) (x y : RegNum) (n k : Nat) : Prop :=
  ∃ row col, SpritePixel s n row col ∧ k = (((s.reg x).toNat + col) + ((s.reg y).toNat + row) * 64) % 2048

/-- The last byte of a sprite of `n` rows exists (60_exceptions.md R161). -/
def SpriteInMemory (s : State) (n : Nat) : Prop := n = 0 ∨ s.idx.toNat + n - 1 ≤ 0xFFF

/-- The two register writes of the arithmetic instructions, on numbers: the flag becomes `c`, then register `x` gets the
result computed from the registers after that write (41_alu.md R107 to R112). -/
def FlagThenResult (c : Nat) (x : RegNum) (result : (RegNum → Nat) → Nat) (s t : State) : Prop :=
  ∀ r, (t.reg r).toNat =
    if r = x then result fun q => if q = 15 then c else (s.reg q).toNat
    else if r = 15 then c else (s.reg r).toNat

/-- The parts of the state a host operation may write (60_exceptions.md R179). -/
def hostMayWrite : HostOp → List Part
  | .hostInit => [.regs, .pc, .index, .stack, .timers, .screen, .dirty, .keys, .memory, .latch]
  | .loadProgram _ => [.memory]
  | .pressKey _ | .releaseKey _ => [.keys]
  | .clearDirty => [.dirty]

end Sys2Proof.Machine
end

