-- ==== Sys2Proof/Certificates/Slice0/Obligations.lean ====
section
/-! DEFINITION. The statements for the provers. A statement named "derived" in OBLIGATIONS.json rests on a clause that the
spec marks as its own decision or derivation, or on a log entry; its docstring names it. -/

open Sys2Proof Sys2Proof.Machine

/-! ### Encoding. The numeric opcodes are PRESUMED (log 1). -/

/-- Decode and encode agree: every instruction, with every operand at every value, is read back from its word, from its
bytes in memory order whatever follows them, and from its number in the opcode table's numbering (30_encoding.md R61, R66,
R68; log 1). -/
def Obligations.DecodeOfEncode : Prop :=
  ∀ (i : Instr) (rest : List Byte),
    decodeWord (encode i) = some i ∧ decodeBytes (bytesOfWord (encode i) ++ rest) = .instr i rest ∧
      decodeTableWord 16 (encode i).toNat = some i

/-- The other direction: a recognised word is the word of its instruction, so no bit of a word is lost (log 1, log 9). -/
def Obligations.EncodeOfDecode : Prop := ∀ (op : Word) (i : Instr), decodeWord op = some i → encode i = op

/-- The decoder follows the table of 30_encoding.md R66: a recognised word selects the row of its instruction and no other
of the 34 rows, and a word is unrecognised exactly when it selects no row (log 1). -/
def Obligations.DecodingFollowsOpcodeTable : Prop :=
  opcodeTable.length = 34 ∧
    (∀ (op : Word) (i : Instr), decodeWord op = some i →
      opcodeRow i ∈ opcodeTable ∧ ∀ r ∈ opcodeTable, (r.selects op = true ↔ r = opcodeRow i)) ∧
    ∀ op : Word, decodeWord op = none ↔ ∀ r ∈ opcodeTable, r.selects op = false

/-- The unrecognised words, group by group: the table of 30_encoding.md R70 (log 1, log 8). -/
def Obligations.UnrecognizedWordsByGroup : Prop :=
  ∀ op : Word, decodeWord op = none ↔
    (op.toNat / 4096 = 0x0 ∧ op.toNat % 256 ∉ [0xE0, 0xEE]) ∨
    (op.toNat / 4096 = 0x8 ∧ op.toNat % 16 ∈ [0x8, 0x9, 0xA, 0xB, 0xC, 0xD, 0xF]) ∨
    (op.toNat / 4096 = 0xE ∧ op.toNat % 256 ∉ [0x9E, 0xA1]) ∨
    (op.toNat / 4096 = 0xF ∧ op.toNat % 256 ∉ [0x07, 0x0A, 0x15, 0x18, 0x1E, 0x29, 0x33, 0x55, 0x65])

/-- 30_encoding.md R62: every 16-bit value decodes to a well-formed record, its fields being the slices of R61. -/
def Obligations.EveryWordGivesWellFormedRecord : Prop :=
  ∀ op : Word, (Fields.ofWord op).wellFormed = true ∧
    (Fields.ofWord op).g.toNat = op.toNat / 4096 ∧ (Fields.ofWord op).x.toNat = op.toNat / 256 % 16 ∧
    (Fields.ofWord op).y.toNat = op.toNat / 16 % 16 ∧ (Fields.ofWord op).n.toNat = op.toNat % 16 ∧
    (Fields.ofWord op).kk.toNat = op.toNat % 256 ∧ (Fields.ofWord op).nnn.toNat = op.toNat % 4096

/-- The decode spot checks of 95_test_vectors.md section 2.6 (log 1). -/
def Obligations.SpotWordsDecode : Prop :=
  decodeWord 0x00E0 = some (.cls 0) ∧ decodeWord 0x00EE = some (.ret 0) ∧ decodeWord 0x1ABC = some (.jp 0xABC) ∧
    decodeWord 0x3A42 = some (.seImm 10 0x42) ∧ decodeWord 0x8AB4 = some (.addReg 10 11) ∧
    decodeWord 0xD125 = some (.drw 1 2 5) ∧ decodeWord 0xE19E = some (.skp 1) ∧
    decodeWord 0xFA65 = some (.ldBlock 10) ∧ decodeWord 0xB123 = some (.jpV0 0x123) ∧
    decodeWord 0x0000 = none ∧ decodeWord 0x0234 = none ∧ decodeWord 0x8128 = none

/-- 30_encoding.md R69 (decision D2, log 8): the ignored bits have no effect. For Return this is said of a Return that does
not fault: a fault records the fetched word, ignored bits included (log 9). -/
def Obligations.IgnoredBitsHaveNoEffect : Prop :=
  ∀ (u u' : Nibble) (x y y' : RegNum) (s : State),
    exec (.cls u) s = exec (.cls u') s ∧ (s.sp ≠ 0 → exec (.ret u) s = exec (.ret u') s) ∧
      exec (.seReg x y u) s = exec (.seReg x y u') s ∧ exec (.sneReg x y u) s = exec (.sneReg x y u') s ∧
      exec (.shr x y) s = exec (.shr x y') s ∧ exec (.shl x y) s = exec (.shl x y') s

/-! ### The cycle -/

/-- 20_memory.md R40: the fetch is big-endian, the byte at the lower address supplying bits 15 to 8. -/
def Obligations.FetchIsBigEndian : Prop :=
  ∀ s : State, s.fetchWord.toNat =
    (s.mem.read s.pc.toNat).toNat * 256 + (s.mem.read (s.pc.toNat + 1)).toNat

/-- 60_exceptions.md R150: on a running core with `pc` at most 0xFFE, even or odd, a step runs the instruction that the two
bytes at `pc` decode to. `exec` itself advances `pc`, counts the timers and raises the handler's fault (log 19). -/
def Obligations.StepRunsDecodedInstruction : Prop :=
  ∀ (s : State) (i : Instr), s.faultCause = .none → s.pc.toNat ≤ 0xFFE →
    decodeBytes [s.mem.read s.pc.toNat, s.mem.read (s.pc.toNat + 1)] = .instr i [] → step s = exec i s

/-- A word placed with `withFetchWord` is what the very next step runs, from any state whose memory is canonical, halted or
with `pc` out of range included (log 14). -/
def Obligations.PlacedWordRunsNext : Prop :=
  ∀ (i : Instr) (s : State), s.mem.wf = true →
    step (s.withFetchWord 16 (encode i).toNat) = exec i (s.withFetchWord 16 (encode i).toNat)

/-- Every state has a next state: a step neither stops with an outcome `fault` nor is refused ("every state of this machine
has a defined `Cycle()`", 93_implementation_defined.md part 1; log 6). -/
def Obligations.EveryStateHasNextState : Prop := ∀ s : State, ∃ t, step s = .next t

/-- 60_exceptions.md R156, R163 (decisions D3 to D7, D9; logs 6, 7, 9): on a running core the cycle faults exactly when
`cycleFault` says so, with that cause and that `fault_info`, and everything else is as before the cycle; otherwise it
completes without a fault. -/
def Obligations.CycleFaultsExactlyWhen : Prop :=
  ∀ s : State, s.faultCause = .none →
    (∀ c w, cycleFault s = some (c, w) → ∃ t, step s = .next t ∧ Faulted c w s t) ∧
    (cycleFault s = none → ∃ t, step s = .next t ∧ t.faultCause = .none)

/-- 60_exceptions.md R152, R153 (decision D4, log 6): a cycle that ends in a fault has changed nothing but the latch, which
holds the `pc` of the start of the cycle. -/
def Obligations.FaultsArePrecise : Prop :=
  ∀ s t : State, step s = .next t → s.faultCause = .none → t.faultCause ≠ .none →
    UnchangedBut [.latch] s t ∧ t.faultPc = s.pc

/-- 60_exceptions.md R154, R155 (decision D4, log 6): a halted core does not change, however many cycles are run. -/
def Obligations.HaltedCoreNeverChanges : Prop :=
  ∀ (n : Nat) (s : State), s.faultCause ≠ .none → Host.Core.run Sys2Proof.core n s = .next s

/-- 60_exceptions.md R151, R169 (D19 for the exception): in every cycle of a running core that does not fault each timer
counts once, whatever the instruction, on the value the handler left: the old one, or `V[x]` for the two that set a
timer. -/
def Obligations.TimersCountInEveryCompletedCycle : Prop :=
  ∀ (s t : State) (i : Instr), Fetches s i → step s = .next t → t.faultCause = .none →
    t.dt.toNat = (match i with | .ldDTVx x => (s.reg x).toNat | _ => s.dt.toNat) - 1 ∧
    t.st.toNat = (match i with | .ldSTVx x => (s.reg x).toNat | _ => s.st.toNat) - 1

/-- 60_exceptions.md R157, 95_test_vectors.md P7 (decision D3; logs 6, 7): running with no program loaded faults on the
first cycle. -/
def Obligations.EmptyMemoryFaultsAtOnce : Prop :=
  ∃ t, step State.reset = .next t ∧ Faulted .unrecognizedOpcode 0x0000 State.reset t

/-! ### Frames over all instructions -/

/-- The column "program writes" of 10_state.md R24: besides `pc`, the timers and the fault latch, an instruction changes
only the parts that `mayWrite` lists for it; the keys are in no list (R22). -/
def Obligations.InstructionsWriteOnlyTheirParts : Prop :=
  ∀ (i : Instr) (s t : State), exec i s = .next t → UnchangedBut (.pc :: .timers :: .latch :: mayWrite i) s t

/-- The column "writes" of 10_state.md R12, with the flag writers of R11: every general register that `mayWriteReg` does
not give to the instruction keeps its value. -/
def Obligations.InstructionsWriteOnlyTheirRegisters : Prop :=
  ∀ (i : Instr) (s t : State) (r : RegNum), exec i s = .next t → mayWriteReg i r = false → t.reg r = s.reg r

/-- 20_memory.md R43: an instruction stores to `I`, `I + 1`, ... as many bytes as `storedCount` says and to no other
address; an instruction that stores nothing leaves every byte. -/
def Obligations.InstructionsStoreOnlyTheirBytes : Prop :=
  ∀ (i : Instr) (s t : State) (a : Nat), exec i s = .next t →
    (a < s.idx.toNat ∨ s.idx.toNat + storedCount i ≤ a) → t.mem.read a = s.mem.read a

/-- 10_state.md R16, R17: Call writes no slot but the one at `sp`, Return writes none, and `sp` moves by one at most. -/
def Obligations.StackSlotsKeptButTheCalls : Prop :=
  ∀ (i : Instr) (s t : State) (k : Fin 16), exec i s = .next t →
    (k.val ≠ s.sp.val ∨ ∀ nnn, i ≠ .call nnn) → t.stack[k] = s.stack[k]

/-- 10_state.md R11: the six instructions that write `V[15]` as a flag leave 0 or 1 in it, x being another register in the
five arithmetic ones, and the draw not faulting. -/
def Obligations.FlagIsZeroOrOne : Prop :=
  ∀ (x y : RegNum) (n : Nibble) (s t : State),
    (x ≠ 15 → exec (.addReg x y) s = .next t ∨ exec (.subReg x y) s = .next t ∨ exec (.shr x y) s = .next t ∨
      exec (.subnReg x y) s = .next t ∨ exec (.shl x y) s = .next t → t.reg 15 = 0 ∨ t.reg 15 = 1) ∧
    (SpriteInMemory s n.toNat → exec (.drw x y n) s = .next t → t.reg 15 = 0 ∨ t.reg 15 = 1)

/-! ### Control transfer -/

/-- 40_control.md R82, R88: the two jumps. -/
def Obligations.JumpsSetThePc : Prop :=
  ∀ (nnn : Addr) (s : State),
    (∃ t, exec (.jp nnn) s = .next t ∧ t.pc.toNat = nnn.toNat ∧ TimersCounted s t ∧ UnchangedBut [.pc, .timers] s t) ∧
    (∃ t, exec (.jpV0 nnn) s = .next t ∧ t.pc.toNat = (s.reg 0).toNat + nnn.toNat ∧ TimersCounted s t ∧
      UnchangedBut [.pc, .timers] s t)

/-- 40_control.md R84 to R87: the four skips on registers; the advance is 4 when the condition holds, else 2. -/
def Obligations.RegisterSkips : Prop :=
  ∀ (x y : RegNum) (kk : Byte) (u : Nibble) (s : State),
    (∃ t, exec (.seImm x kk) s = .next t ∧ t.pc = (if s.reg x = kk then s.pc + 4 else s.pc + 2) ∧
      TimersCounted s t ∧ UnchangedBut [.pc, .timers] s t) ∧
    (∃ t, exec (.sneImm x kk) s = .next t ∧ t.pc = (if s.reg x ≠ kk then s.pc + 4 else s.pc + 2) ∧
      TimersCounted s t ∧ UnchangedBut [.pc, .timers] s t) ∧
    (∃ t, exec (.seReg x y u) s = .next t ∧ t.pc = (if s.reg x = s.reg y then s.pc + 4 else s.pc + 2) ∧
      TimersCounted s t ∧ UnchangedBut [.pc, .timers] s t) ∧
    (∃ t, exec (.sneReg x y u) s = .next t ∧ t.pc = (if s.reg x ≠ s.reg y then s.pc + 4 else s.pc + 2) ∧
      TimersCounted s t ∧ UnchangedBut [.pc, .timers] s t)

/-- 40_control.md R83 (decision D5 for the full stack; logs 6, 7, 9): a Call with a free slot pushes the address after it
and jumps; with a full stack it faults. -/
def Obligations.CallPushesOrOverflows : Prop :=
  ∀ (nnn : Addr) (s : State),
    (s.sp.val < 16 → ∃ t, exec (.call nnn) s = .next t ∧ t.pc.toNat = nnn.toNat ∧ t.sp.val = s.sp.val + 1 ∧
      (∀ k : Fin 16, t.stack[k] = if k.val = s.sp.val then s.pc + 2 else s.stack[k]) ∧
      TimersCounted s t ∧ UnchangedBut [.pc, .stack, .timers] s t) ∧
    (s.sp.val = 16 → ∃ t, exec (.call nnn) s = .next t ∧ Faulted .stackOverflow (encode (.call nnn)) s t)

/-- 40_control.md R81 (decision D5 for the empty stack; logs 6, 7, 9): a Return with a live slot decrements `sp`, jumps to
the slot, and leaves the slots as they are; with an empty stack it faults. -/
def Obligations.ReturnPopsOrUnderflows : Prop :=
  ∀ (u : Nibble) (s : State),
    (∀ k : Fin 16, k.val + 1 = s.sp.val → ∃ t, exec (.ret u) s = .next t ∧ t.pc = s.stack[k] ∧ t.sp.val = k.val ∧
      t.stack = s.stack ∧ TimersCounted s t ∧ UnchangedBut [.pc, .stack, .timers] s t) ∧
    (s.sp.val = 0 → ∃ t, exec (.ret u) s = .next t ∧ Faulted .stackUnderflow (encode (.ret u)) s t)

/-- The source's property S7 (95_test_vectors.md): a Call and then at once a Return restores `pc` to the address after the
Call, and `sp`. -/
def Obligations.CallThenReturnComesBack : Prop :=
  ∀ (nnn : Addr) (u : Nibble) (s t : State), s.sp.val < 16 → exec (.call nnn) s = .next t →
    ∃ r, exec (.ret u) t = .next r ∧ r.pc = s.pc + 2 ∧ r.sp = s.sp ∧ UnchangedBut [.pc, .stack, .timers] s r

/-! ### Registers: loads, arithmetic, logic, shifts, random -/

/-- 41_alu.md R101, R103 to R106: load immediate, move, OR, AND, XOR; no flag is written. -/
def Obligations.LoadMoveAndLogic : Prop :=
  ∀ (x y : RegNum) (kk : Byte) (s : State),
    (∃ t, exec (.ldImm x kk) s = .next t ∧ Completes [.regs] s t ∧ WritesReg x kk s t) ∧
    (∃ t, exec (.ldReg x y) s = .next t ∧ Completes [.regs] s t ∧ WritesReg x (s.reg y) s t) ∧
    (∃ t, exec (.orReg x y) s = .next t ∧ Completes [.regs] s t ∧ WritesReg x (s.reg x ||| s.reg y) s t) ∧
    (∃ t, exec (.andReg x y) s = .next t ∧ Completes [.regs] s t ∧ WritesReg x (s.reg x &&& s.reg y) s t) ∧
    (∃ t, exec (.xorReg x y) s = .next t ∧ Completes [.regs] s t ∧ WritesReg x (s.reg x ^^^ s.reg y) s t)

/-- 41_alu.md R102: Add immediate wraps modulo 256 and writes no flag. -/
def Obligations.AddImmediateWrapsWithoutFlag : Prop :=
  ∀ (x : RegNum) (kk : Byte) (s : State), ∃ t, exec (.addImm x kk) s = .next t ∧ Completes [.regs] s t ∧
    (t.reg x).toNat = ((s.reg x).toNat + kk.toNat) % 256 ∧ ∀ r, r ≠ x → t.reg r = s.reg r

/-- 41_alu.md R107 to R111 for every x and y: the flag is written first, then the result is computed from the registers
after that write. That the two lines are read in this order also when x or y is 15 is decision D12 (log 10). -/
def Obligations.ArithmeticWritesFlagThenResult : Prop :=
  ∀ (x y : RegNum) (s : State),
    (∃ t, exec (.addReg x y) s = .next t ∧ Completes [.regs] s t ∧
      FlagThenResult (if (s.reg y).toNat > 255 - (s.reg x).toNat then 1 else 0) x (fun g => (g x + g y) % 256) s t) ∧
    (∃ t, exec (.subReg x y) s = .next t ∧ Completes [.regs] s t ∧
      FlagThenResult (if (s.reg x).toNat ≥ (s.reg y).toNat then 1 else 0) x (fun g => (256 + g x - g y) % 256) s t) ∧
    (∃ t, exec (.shr x y) s = .next t ∧ Completes [.regs] s t ∧
      FlagThenResult ((s.reg x).toNat % 2) x (fun g => g x / 2) s t) ∧
    (∃ t, exec (.subnReg x y) s = .next t ∧ Completes [.regs] s t ∧
      FlagThenResult (if (s.reg y).toNat ≥ (s.reg x).toNat then 1 else 0) x (fun g => (256 + g y - g x) % 256) s t) ∧
    (∃ t, exec (.shl x y) s = .next t ∧ Completes [.regs] s t ∧
      FlagThenResult ((s.reg x).toNat / 128) x (fun g => g x * 2 % 256) s t)

/-- The source's properties S1 to S3 (95_test_vectors.md), for x and y other than 15: the flag is the carry, NOT borrow or
the bit shifted out, and the result is that of the old operands. -/
def Obligations.ArithmeticOnOrdinaryRegisters : Prop :=
  ∀ (x y : RegNum) (s t : State), x ≠ 15 → y ≠ 15 →
    (exec (.addReg x y) s = .next t → (t.reg x).toNat = ((s.reg x).toNat + (s.reg y).toNat) % 256 ∧
      (t.reg 15 = 1 ↔ (s.reg x).toNat + (s.reg y).toNat > 255)) ∧
    (exec (.subReg x y) s = .next t →
      ((t.reg x).toNat : Int) = ((s.reg x).toNat - (s.reg y).toNat : Int) % 256 ∧
      (t.reg 15 = 1 ↔ (s.reg y).toNat ≤ (s.reg x).toNat)) ∧
    (exec (.subnReg x y) s = .next t →
      ((t.reg x).toNat : Int) = ((s.reg y).toNat - (s.reg x).toNat : Int) % 256 ∧
      (t.reg 15 = 1 ↔ (s.reg x).toNat ≤ (s.reg y).toNat)) ∧
    (exec (.shr x y) s = .next t → (t.reg x).toNat = (s.reg x).toNat / 2 ∧
      (t.reg 15 = 1 ↔ (s.reg x).toNat % 2 = 1)) ∧
    (exec (.shl x y) s = .next t → (t.reg x).toNat = (s.reg x).toNat * 2 % 256 ∧
      (t.reg 15 = 1 ↔ (s.reg x).toNat ≥ 128))

/-- The table of 41_alu.md R112 (decision D12, log 10): the flag register as an operand, `f` being its old value. -/
def Obligations.FlagRegisterAsOperand : Prop :=
  ∀ (x y : RegNum) (s t : State), x ≠ 15 → y ≠ 15 →
    (exec (.addReg 15 y) s = .next t → (t.reg 15).toNat =
      ((if (s.reg y).toNat > 255 - (s.reg 15).toNat then 1 else 0) + (s.reg y).toNat) % 256) ∧
    (exec (.addReg x 15) s = .next t →
      (t.reg 15).toNat = (if (s.reg 15).toNat > 255 - (s.reg x).toNat then 1 else 0) ∧
      (t.reg x).toNat = ((s.reg x).toNat + (t.reg 15).toNat) % 256) ∧
    (exec (.addReg 15 15) s = .next t → (t.reg 15).toNat = if (s.reg 15).toNat ≥ 128 then 2 else 0) ∧
    (exec (.subReg 15 y) s = .next t → (t.reg 15).toNat =
      (256 + (if (s.reg 15).toNat ≥ (s.reg y).toNat then 1 else 0) - (s.reg y).toNat) % 256) ∧
    (exec (.subReg x 15) s = .next t →
      (t.reg 15).toNat = (if (s.reg x).toNat ≥ (s.reg 15).toNat then 1 else 0) ∧
      (t.reg x).toNat = (256 + (s.reg x).toNat - (t.reg 15).toNat) % 256) ∧
    (exec (.subReg 15 15) s = .next t → t.reg 15 = 0) ∧
    (exec (.shr 15 y) s = .next t → t.reg 15 = 0) ∧
    (exec (.subnReg 15 y) s = .next t → (t.reg 15).toNat =
      (256 + (s.reg y).toNat - (if (s.reg y).toNat ≥ (s.reg 15).toNat then 1 else 0)) % 256) ∧
    (exec (.subnReg x 15) s = .next t →
      (t.reg 15).toNat = (if (s.reg 15).toNat ≥ (s.reg x).toNat then 1 else 0) ∧
      (t.reg x).toNat = (256 + (t.reg 15).toNat - (s.reg x).toNat) % 256) ∧
    (exec (.subnReg 15 15) s = .next t → t.reg 15 = 0) ∧
    (exec (.shl 15 y) s = .next t → (t.reg 15).toNat = if (s.reg 15).toNat ≥ 128 then 2 else 0)

/-- 41_alu.md R113 (decision D13, log 4): Random AND immediate consumes one fresh byte and writes it masked. The byte is
the free value `Config.freeByte`, about which nothing is assumed. -/
def Obligations.RandomDrawsOneMaskedByte : Prop :=
  ∀ (x : RegNum) (kk : Byte) (s : State), ∃ t, exec (.rnd x kk) s = .next t ∧ Completes [.regs, .draws] s t ∧
    t.draws = s.draws + 1 ∧ WritesReg x (Config.freeByte s.draws &&& kk) s t

/-! ### Display -/

/-- 42_display.md R121: Clear screen unsets all 2048 cells and marks dirty. -/
def Obligations.ClearScreenUnsetsEveryCell : Prop :=
  ∀ (u : Nibble) (s : State), ∃ t, exec (.cls u) s = .next t ∧ Completes [.screen, .dirty] s t ∧
    (∀ k, k < 2048 → cellAt t.fb k = false) ∧ t.dirty = true

/-- 42_display.md R122, R123 b for every x and y, the sprite lying in memory: the target cells are flipped and no other,
`V[15]` is 1 when a target cell was set before and else 0, no other register changes, `dirty` is set. DRAW_WRAP = flat is
decision D10 (log 3), the coordinates read before the flag is reset decision D11 (log 11), the integers decision D28
(log 13). -/
def Obligations.DrawSpriteFlipsItsTargets : Prop :=
  ∀ (x y : RegNum) (n : Nibble) (s : State), SpriteInMemory s n.toNat →
    ∃ t, exec (.drw x y n) s = .next t ∧ Completes [.regs, .screen, .dirty] s t ∧ t.dirty = true ∧
      (∀ k, k < 2048 → (Plots s x y n.toNat k → cellAt t.fb k = !cellAt s.fb k) ∧
        (¬Plots s x y n.toNat k → cellAt t.fb k = cellAt s.fb k)) ∧
      (∀ r, r ≠ 15 → t.reg r = s.reg r) ∧
      ((∃ k, Plots s x y n.toNat k ∧ cellAt s.fb k = true) → t.reg 15 = 1) ∧
      ((∀ k, Plots s x y n.toNat k → cellAt s.fb k = false) → t.reg 15 = 0)

/-- 42_display.md R123 c: drawing the same sprite twice at the same place restores the framebuffer, and the second draw
reports a collision exactly when a target cell was unset before the first. With x or y = 15 the first draw moves the place
(DrawSpriteFlipsItsTargets covers each of the two draws). DRAW_WRAP = flat is decision D10 (log 3). -/
def Obligations.DrawTwiceRestoresTheScreen : Prop :=
  ∀ (x y : RegNum) (n : Nibble) (s t u : State), x ≠ 15 → y ≠ 15 → SpriteInMemory s n.toNat →
    exec (.drw x y n) s = .next t → exec (.drw x y n) t = .next u →
    (∀ k, k < 2048 → cellAt u.fb k = cellAt s.fb k) ∧
      (u.reg 15 = 1 ↔ ∃ k, Plots s x y n.toNat k ∧ cellAt s.fb k = false)

/-- 42_display.md R123 a and R124: where the target cell lies under `flat`, and that the two values of DRAW_WRAP agree as
long as no pixel passes column 63. -/
def Obligations.TargetCellGeometry : Prop :=
  ∀ vx vy row col : Nat,
    targetCell .flat vx vy row col % 64 = (vx + col) % 64 ∧
    targetCell .flat vx vy row col / 64 = (vy + row + (vx + col) / 64) % 32 ∧
    targetCell .independent vx vy row col % 64 = (vx + col) % 64 ∧
    targetCell .independent vx vy row col / 64 = (vy + row) % 32 ∧
    (vx + col ≤ 63 → targetCell .flat vx vy row col = targetCell .independent vx vy row col)

/-! ### Keypad and timers -/

/-- 43_keypad_timer.md R130, R131 (decision D9 for the indices above 15; logs 6, 7): the two key skips. -/
def Obligations.KeySkips : Prop :=
  ∀ (x : RegNum) (s : State),
    (∀ k : KeyNum, (s.reg x).toNat = k.val →
      (∃ t, exec (.skp x) s = .next t ∧ t.pc = (if s.keyDown k = true then s.pc + 4 else s.pc + 2) ∧
        TimersCounted s t ∧ UnchangedBut [.pc, .timers] s t) ∧
      (∃ t, exec (.sknp x) s = .next t ∧ t.pc = (if s.keyDown k = false then s.pc + 4 else s.pc + 2) ∧
        TimersCounted s t ∧ UnchangedBut [.pc, .timers] s t)) ∧
    ((s.reg x).toNat > 15 →
      (∃ t, exec (.skp x) s = .next t ∧ Faulted .keyIndexOutOfRange (.ofNat 16 (s.reg x).toNat) s t) ∧
      (∃ t, exec (.sknp x) s = .next t ∧ Faulted .keyIndexOutOfRange (.ofNat 16 (s.reg x).toNat) s t))

/-- 43_keypad_timer.md R133: the key wait stores the lowest-indexed pressed key and goes on; with no key pressed `pc` stays
at the instruction, and only the timers change. -/
def Obligations.KeyWaitStoresLowestKeyOrReplays : Prop :=
  ∀ (x : RegNum) (s : State),
    (∀ k : KeyNum, s.keyDown k = true → (∀ j, j < k → s.keyDown j = false) →
      ∃ t, exec (.ldVxK x) s = .next t ∧ Completes [.regs] s t ∧ WritesReg x (.ofNat 8 k.val) s t) ∧
    ((∀ k, s.keyDown k = false) →
      ∃ t, exec (.ldVxK x) s = .next t ∧ TimersCounted s t ∧ UnchangedBut [.timers] s t)

/-- The source's property S6 (95_test_vectors.md): while no key is pressed the key wait makes no progress over any number
of cycles, and the timers count down all the while. -/
def Obligations.KeyWaitMakesNoProgressWithoutKey : Prop :=
  ∀ (n : Nat) (x : RegNum) (s : State), AwaitingKey x s →
    ∃ t, Host.Core.run Sys2Proof.core n s = .next t ∧ UnchangedBut [.timers] s t ∧
      t.dt.toNat = s.dt.toNat - n ∧ t.st.toNat = s.st.toNat - n

/-- 43_keypad_timer.md R132, R134, R135: reading the delay timer gives the value before this cycle's decrement; a timer
that is set is decremented at the end of the same cycle. -/
def Obligations.TimerTransfers : Prop :=
  ∀ (x : RegNum) (s : State),
    (∃ t, exec (.ldVxDT x) s = .next t ∧ Completes [.regs] s t ∧ WritesReg x s.dt s t) ∧
    (∃ t, exec (.ldDTVx x) s = .next t ∧ t.pc = s.pc + 2 ∧ t.dt.toNat = (s.reg x).toNat - 1 ∧
      t.st.toNat = s.st.toNat - 1 ∧ UnchangedBut [.pc, .timers] s t) ∧
    (∃ t, exec (.ldSTVx x) s = .next t ∧ t.pc = s.pc + 2 ∧ t.st.toNat = (s.reg x).toNat - 1 ∧
      t.dt.toNat = s.dt.toNat - 1 ∧ UnchangedBut [.pc, .timers] s t)

/-! ### Index register and memory -/

/-- 44_index_memory.md R140: Load index. -/
def Obligations.LoadIndexSetsI : Prop :=
  ∀ (nnn : Addr) (s : State), ∃ t, exec (.ldI nnn) s = .next t ∧ Completes [.index] s t ∧ t.idx = nnn

/-- 44_index_memory.md R141, R142: Add reg to index wraps modulo 4096 without a flag (decision D8, log 12); the glyph
address is `V[x] * 5`, the value not masked (decision D28, log 13). -/
def Obligations.IndexArithmetic : Prop :=
  ∀ (x : RegNum) (s : State),
    (∃ t, exec (.addI x) s = .next t ∧ Completes [.index] s t ∧
      t.idx.toNat = (s.idx.toNat + (s.reg x).toNat) % 4096) ∧
    (∃ t, exec (.ldF x) s = .next t ∧ Completes [.index] s t ∧ t.idx.toNat = (s.reg x).toNat * 5)

/-- 44_index_memory.md R143 (decision D7 for the fault; logs 6, 7): Store BCD writes hundreds, tens and units at `I`,
`I + 1`, `I + 2`, and nothing else, or faults when `I + 2` is above 0xFFF. Memory is canonical, as every step keeps it. -/
def Obligations.StoreBcdWritesThreeDigits : Prop :=
  ∀ (x : RegNum) (s : State),
    (s.mem.wf = true → s.idx.toNat + 2 ≤ 0xFFF → ∃ t, exec (.ldB x) s = .next t ∧ Completes [.memory] s t ∧
      (t.mem.read s.idx.toNat).toNat = (s.reg x).toNat / 100 ∧
      (t.mem.read (s.idx.toNat + 1)).toNat = (s.reg x).toNat / 10 % 10 ∧
      (t.mem.read (s.idx.toNat + 2)).toNat = (s.reg x).toNat % 10 ∧
      ∀ a, a < s.idx.toNat ∨ s.idx.toNat + 2 < a → t.mem.read a = s.mem.read a) ∧
    (s.idx.toNat + 2 > 0xFFF →
      ∃ t, exec (.ldB x) s = .next t ∧ Faulted .memoryOutOfRange (.ofNat 16 (s.idx.toNat + 2)) s t)

/-- 44_index_memory.md R144 (decisions D7, D8; logs 6, 7, 12): the block store writes `V[0]` to `V[x]` at ascending
addresses from `I`, and nothing else, and advances `I` modulo 4096, or faults. -/
def Obligations.StoreBlockWritesRegisters : Prop :=
  ∀ (x : RegNum) (s : State),
    (s.mem.wf = true → s.idx.toNat + x.val ≤ 0xFFF → ∃ t, exec (.stBlock x) s = .next t ∧
      Completes [.memory, .index] s t ∧ t.idx.toNat = (s.idx.toNat + x.val + 1) % 4096 ∧
      (∀ r : RegNum, r ≤ x → t.mem.read (s.idx.toNat + r.val) = s.reg r) ∧
      ∀ a, a < s.idx.toNat ∨ s.idx.toNat + x.val < a → t.mem.read a = s.mem.read a) ∧
    (s.idx.toNat + x.val > 0xFFF →
      ∃ t, exec (.stBlock x) s = .next t ∧ Faulted .memoryOutOfRange (.ofNat 16 (s.idx.toNat + x.val)) s t)

/-- 44_index_memory.md R145 (decisions D7, D8; logs 6, 7, 12): the block load reads `V[0]` to `V[x]` from ascending
addresses from `I`, leaves the registers above x, and advances `I` modulo 4096, or faults. -/
def Obligations.LoadBlockReadsRegisters : Prop :=
  ∀ (x : RegNum) (s : State),
    (s.idx.toNat + x.val ≤ 0xFFF → ∃ t, exec (.ldBlock x) s = .next t ∧
      Completes [.regs, .index] s t ∧ t.idx.toNat = (s.idx.toNat + x.val + 1) % 4096 ∧
      ∀ r : RegNum, t.reg r = if r ≤ x then s.mem.read (s.idx.toNat + r.val) else s.reg r) ∧
    (s.idx.toNat + x.val > 0xFFF →
      ∃ t, exec (.ldBlock x) s = .next t ∧ Faulted .memoryOutOfRange (.ofNat 16 (s.idx.toNat + x.val)) s t)

/-- The source's property S8 (95_test_vectors.md): a block store and then, from the same address and the same memory and
whatever the registers then hold, the block load gives the stored registers back; each advances `I` by x + 1. -/
def Obligations.BlockStoreThenLoadRestores : Prop :=
  ∀ (x : RegNum) (s t t' u : State), s.mem.wf = true → s.idx.toNat + x.val ≤ 0xFFF →
    exec (.stBlock x) s = .next t → t'.mem = t.mem → t'.idx = s.idx → exec (.ldBlock x) t' = .next u →
    (∀ r, r ≤ x → u.reg r = s.reg r) ∧ u.idx = t.idx

/-- 20_memory.md R52, 70_reset_and_hazards.md R199: a block store over the next instruction word is seen by the very next
fetch. -/
def Obligations.StoreIsSeenByNextFetch : Prop :=
  ∀ (x r r' : RegNum) (s t : State), s.mem.wf = true → s.idx.toNat + x.val ≤ 0xFFF →
    exec (.stBlock x) s = .next t → r'.val = r.val + 1 → r' ≤ x → s.idx.toNat + r.val = t.pc.toNat →
    t.fetchWord.toNat = (s.reg r).toNat * 256 + (s.reg r').toNat

/-! ### Reset, the invariant, the host -/

/-- The table of 10_state.md R29 (the latch row is decision D4, the glyph bytes are PRESUMED, log 2; the model's own
counter is no part of it). -/
def Obligations.ResetValues : Prop :=
  (∀ r, State.reset.reg r = 0) ∧ State.reset.pc = 0x0200 ∧ State.reset.idx = 0 ∧
    (∀ k : Fin 16, State.reset.stack[k] = 0) ∧ State.reset.sp = 0 ∧ State.reset.dt = 0 ∧ State.reset.st = 0 ∧
    (∀ k, k < 2048 → cellAt State.reset.fb k = false) ∧ State.reset.dirty = false ∧
    (∀ k, State.reset.keyDown k = false) ∧
    (∀ d row, d < 16 → row < 5 → State.reset.mem.read (5 * d + row) = Config.glyphByte d row) ∧
    (∀ a, 0x050 ≤ a → State.reset.mem.read a = 0) ∧
    State.reset.faultCause.code = 0 ∧ State.reset.faultPc = 0 ∧ State.reset.faultInfo = 0

/-- The reset state meets the invariant. -/
def Obligations.ResetMeetsInvariant : Prop := State.reset.Inv

/-- Every step keeps the invariant: memory stays canonical, `pc` stays at most 0x10FE (10_state.md R26), the return
addresses stay in their bounds (40_control.md R81), and the latch tells the truth about the fault (log 6). -/
def Obligations.StepKeepsInvariant : Prop := ∀ s t : State, s.Inv → step s = .next t → t.Inv

/-- Memory stays canonical in every step, whatever else holds of the state. -/
def Obligations.StepKeepsMemoryCanonical : Prop :=
  ∀ s t : State, s.mem.wf = true → step s = .next t → t.mem.wf = true

/-- Every operation of the host keeps the invariant (60_exceptions.md R170 to R176). -/
def Obligations.HostOperationsKeepInvariant : Prop := ∀ (op : HostOp) (s : State), s.Inv → (op.apply s).Inv

/-- The invariant holds along every execution from a state that meets it: any interleaving of cycles and host operations
(00_scope.md R6, 60_exceptions.md R184) ends in a state, and that state meets it. -/
def Obligations.ExecutionsKeepInvariant : Prop :=
  ∀ (es : List Event) (s : State), s.Inv → ∃ t, runEvents es s = .next t ∧ t.Inv

/-- 10_state.md R16: no instruction can observe a slot at or above `sp`: states that differ only there step to states that
differ only there. -/
def Obligations.DeadStackSlotsAreNotObserved : Prop :=
  ∀ s s' t : State, SameButDeadSlots s s' → step s = .next t → ∃ t', step s' = .next t' ∧ SameButDeadSlots t t'

/-- 10_state.md R19, R21, 60_exceptions.md R176: no instruction reads `dirty` or `ST`: other values of them change nothing
else in the next state. -/
def Obligations.DirtyAndSoundTimerAreNotRead : Prop :=
  ∀ (s t : State) (d : Bool) (v : Byte), step s = .next t →
    ∃ u, step { s with dirty := d, st := v } = .next u ∧ { u with dirty := t.dirty, st := t.st } = t

/-- 60_exceptions.md R184 b, 40_control.md R90: a stopped core, at a jump to itself, changes nothing but the timers, which
have both reached 0 after 255 cycles. -/
def Obligations.JumpToSelfChangesOnlyTimers : Prop :=
  ∀ (n : Nat) (s : State), Stopped s →
    ∃ t, Host.Core.run Sys2Proof.core n s = .next t ∧ UnchangedBut [.timers] s t ∧
      t.dt.toNat = s.dt.toNat - n ∧ t.st.toNat = s.st.toNat - n ∧ (255 ≤ n → t.dt = 0 ∧ t.st = 0)

/-- 60_exceptions.md R170: `initialize` gives the reset state whatever the state was; the model's own counter of drawn bytes
goes on (log 5). -/
def Obligations.InitializeResetsEverything : Prop :=
  ∀ s : State, UnchangedBut [.draws] State.reset s.hostInit ∧ s.hostInit.draws = s.draws

/-- 60_exceptions.md R171 (decision D14, log 14): an image of at most 3584 bytes is stored from 0x200 and changes nothing
else; a longer one is rejected and changes nothing. -/
def Obligations.LoadProgramStoresOrRejects : Prop :=
  ∀ (image : List Byte) (s : State),
    (s.mem.wf = true → image.length ≤ 3584 → ∃ t, s.loadProgram image = some t ∧ UnchangedBut [.memory] s t ∧
      (∀ (j : Nat) (h : j < image.length), t.mem.read (0x200 + j) = image[j]) ∧
      ∀ a, a < 0x200 ∨ 0x200 + image.length ≤ a → t.mem.read a = s.mem.read a) ∧
    (image.length > 3584 → s.loadProgram image = none ∧ (HostOp.loadProgram image).apply s = s)

/-- 60_exceptions.md R173, R174: press and release set the level of their key and of no other, and ignore an index outside
0 to 15. -/
def Obligations.HostKeysSetOneLevel : Prop :=
  ∀ (i : Int) (s : State),
    (∀ k : KeyNum, i = (k.val : Int) → ∀ j,
      (s.pressKey i).keyDown j = (if j = k then true else s.keyDown j) ∧
      (s.releaseKey i).keyDown j = (if j = k then false else s.keyDown j)) ∧
    (i < 0 ∨ 15 < i → s.pressKey i = s ∧ s.releaseKey i = s)

/-- The table of 60_exceptions.md R179: each host operation changes only the parts that `hostMayWrite` lists for it. -/
def Obligations.HostOperationsWriteOnlyTheirParts : Prop :=
  ∀ (op : HostOp) (s : State), UnchangedBut (hostMayWrite op) s (op.apply s)
end

