-- ==== Sys2Proof/Laws/State.lean ====
section
/-! SUPPORT. One lemma per field per update of the state, true by rfl, so that no later proof unfolds a record update. -/

namespace Sys2Proof.Machine

open Sys2Proof

/-! ### A register write -/

@[simp] theorem State.setReg_v (s : State) (x : RegNum) (b : Byte) : (s.setReg x b).v = s.v.set x b := rfl
@[simp] theorem State.setReg_pc (s : State) (x : RegNum) (b : Byte) : (s.setReg x b).pc = s.pc := rfl
@[simp] theorem State.setReg_idx (s : State) (x : RegNum) (b : Byte) : (s.setReg x b).idx = s.idx := rfl
@[simp] theorem State.setReg_stack (s : State) (x : RegNum) (b : Byte) : (s.setReg x b).stack = s.stack := rfl
@[simp] theorem State.setReg_sp (s : State) (x : RegNum) (b : Byte) : (s.setReg x b).sp = s.sp := rfl
@[simp] theorem State.setReg_dt (s : State) (x : RegNum) (b : Byte) : (s.setReg x b).dt = s.dt := rfl
@[simp] theorem State.setReg_st (s : State) (x : RegNum) (b : Byte) : (s.setReg x b).st = s.st := rfl
@[simp] theorem State.setReg_fb (s : State) (x : RegNum) (b : Byte) : (s.setReg x b).fb = s.fb := rfl
@[simp] theorem State.setReg_dirty (s : State) (x : RegNum) (b : Byte) : (s.setReg x b).dirty = s.dirty := rfl
@[simp] theorem State.setReg_key (s : State) (x : RegNum) (b : Byte) : (s.setReg x b).key = s.key := rfl
@[simp] theorem State.setReg_mem (s : State) (x : RegNum) (b : Byte) : (s.setReg x b).mem = s.mem := rfl
@[simp] theorem State.setReg_faultCause (s : State) (x : RegNum) (b : Byte) : (s.setReg x b).faultCause = s.faultCause := rfl
@[simp] theorem State.setReg_faultPc (s : State) (x : RegNum) (b : Byte) : (s.setReg x b).faultPc = s.faultPc := rfl
@[simp] theorem State.setReg_faultInfo (s : State) (x : RegNum) (b : Byte) : (s.setReg x b).faultInfo = s.faultInfo := rfl
@[simp] theorem State.setReg_draws (s : State) (x : RegNum) (b : Byte) : (s.setReg x b).draws = s.draws := rfl

/-! ### The advance of `pc` -/

@[simp] theorem State.advance_v (s : State) : (s.advance).v = s.v := rfl
@[simp] theorem State.advance_pc (s : State) : (s.advance).pc = s.pc + 2 := rfl
@[simp] theorem State.advance_idx (s : State) : (s.advance).idx = s.idx := rfl
@[simp] theorem State.advance_stack (s : State) : (s.advance).stack = s.stack := rfl
@[simp] theorem State.advance_sp (s : State) : (s.advance).sp = s.sp := rfl
@[simp] theorem State.advance_dt (s : State) : (s.advance).dt = s.dt := rfl
@[simp] theorem State.advance_st (s : State) : (s.advance).st = s.st := rfl
@[simp] theorem State.advance_fb (s : State) : (s.advance).fb = s.fb := rfl
@[simp] theorem State.advance_dirty (s : State) : (s.advance).dirty = s.dirty := rfl
@[simp] theorem State.advance_key (s : State) : (s.advance).key = s.key := rfl
@[simp] theorem State.advance_mem (s : State) : (s.advance).mem = s.mem := rfl
@[simp] theorem State.advance_faultCause (s : State) : (s.advance).faultCause = s.faultCause := rfl
@[simp] theorem State.advance_faultPc (s : State) : (s.advance).faultPc = s.faultPc := rfl
@[simp] theorem State.advance_faultInfo (s : State) : (s.advance).faultInfo = s.faultInfo := rfl
@[simp] theorem State.advance_draws (s : State) : (s.advance).draws = s.draws := rfl

/-! ### A jump -/

@[simp] theorem State.jumpTo_v (s : State) (w : Word) : (s.jumpTo w).v = s.v := rfl
@[simp] theorem State.jumpTo_pc (s : State) (w : Word) : (s.jumpTo w).pc = w := rfl
@[simp] theorem State.jumpTo_idx (s : State) (w : Word) : (s.jumpTo w).idx = s.idx := rfl
@[simp] theorem State.jumpTo_stack (s : State) (w : Word) : (s.jumpTo w).stack = s.stack := rfl
@[simp] theorem State.jumpTo_sp (s : State) (w : Word) : (s.jumpTo w).sp = s.sp := rfl
@[simp] theorem State.jumpTo_dt (s : State) (w : Word) : (s.jumpTo w).dt = s.dt := rfl
@[simp] theorem State.jumpTo_st (s : State) (w : Word) : (s.jumpTo w).st = s.st := rfl
@[simp] theorem State.jumpTo_fb (s : State) (w : Word) : (s.jumpTo w).fb = s.fb := rfl
@[simp] theorem State.jumpTo_dirty (s : State) (w : Word) : (s.jumpTo w).dirty = s.dirty := rfl
@[simp] theorem State.jumpTo_key (s : State) (w : Word) : (s.jumpTo w).key = s.key := rfl
@[simp] theorem State.jumpTo_mem (s : State) (w : Word) : (s.jumpTo w).mem = s.mem := rfl
@[simp] theorem State.jumpTo_faultCause (s : State) (w : Word) : (s.jumpTo w).faultCause = s.faultCause := rfl
@[simp] theorem State.jumpTo_faultPc (s : State) (w : Word) : (s.jumpTo w).faultPc = s.faultPc := rfl
@[simp] theorem State.jumpTo_faultInfo (s : State) (w : Word) : (s.jumpTo w).faultInfo = s.faultInfo := rfl
@[simp] theorem State.jumpTo_draws (s : State) (w : Word) : (s.jumpTo w).draws = s.draws := rfl

/-! ### A replay -/

@[simp] theorem State.replay_v (s : State) : (s.replay).v = s.v := rfl
@[simp] theorem State.replay_pc (s : State) : (s.replay).pc = s.pc - 2 := rfl
@[simp] theorem State.replay_idx (s : State) : (s.replay).idx = s.idx := rfl
@[simp] theorem State.replay_stack (s : State) : (s.replay).stack = s.stack := rfl
@[simp] theorem State.replay_sp (s : State) : (s.replay).sp = s.sp := rfl
@[simp] theorem State.replay_dt (s : State) : (s.replay).dt = s.dt := rfl
@[simp] theorem State.replay_st (s : State) : (s.replay).st = s.st := rfl
@[simp] theorem State.replay_fb (s : State) : (s.replay).fb = s.fb := rfl
@[simp] theorem State.replay_dirty (s : State) : (s.replay).dirty = s.dirty := rfl
@[simp] theorem State.replay_key (s : State) : (s.replay).key = s.key := rfl
@[simp] theorem State.replay_mem (s : State) : (s.replay).mem = s.mem := rfl
@[simp] theorem State.replay_faultCause (s : State) : (s.replay).faultCause = s.faultCause := rfl
@[simp] theorem State.replay_faultPc (s : State) : (s.replay).faultPc = s.faultPc := rfl
@[simp] theorem State.replay_faultInfo (s : State) : (s.replay).faultInfo = s.faultInfo := rfl
@[simp] theorem State.replay_draws (s : State) : (s.replay).draws = s.draws := rfl

/-! ### The count of the timers -/

@[simp] theorem State.tick_v (s : State) : (s.tick).v = s.v := rfl
@[simp] theorem State.tick_pc (s : State) : (s.tick).pc = s.pc := rfl
@[simp] theorem State.tick_idx (s : State) : (s.tick).idx = s.idx := rfl
@[simp] theorem State.tick_stack (s : State) : (s.tick).stack = s.stack := rfl
@[simp] theorem State.tick_sp (s : State) : (s.tick).sp = s.sp := rfl
@[simp] theorem State.tick_dt (s : State) : (s.tick).dt = countDown s.dt := rfl
@[simp] theorem State.tick_st (s : State) : (s.tick).st = countDown s.st := rfl
@[simp] theorem State.tick_fb (s : State) : (s.tick).fb = s.fb := rfl
@[simp] theorem State.tick_dirty (s : State) : (s.tick).dirty = s.dirty := rfl
@[simp] theorem State.tick_key (s : State) : (s.tick).key = s.key := rfl
@[simp] theorem State.tick_mem (s : State) : (s.tick).mem = s.mem := rfl
@[simp] theorem State.tick_faultCause (s : State) : (s.tick).faultCause = s.faultCause := rfl
@[simp] theorem State.tick_faultPc (s : State) : (s.tick).faultPc = s.faultPc := rfl
@[simp] theorem State.tick_faultInfo (s : State) : (s.tick).faultInfo = s.faultInfo := rfl
@[simp] theorem State.tick_draws (s : State) : (s.tick).draws = s.draws := rfl

/-! ### A fault raised -/

@[simp] theorem State.raise_v (s : State) (c : FaultCause) (w : Word) : (s.raise c w).v = s.v := rfl
@[simp] theorem State.raise_pc (s : State) (c : FaultCause) (w : Word) : (s.raise c w).pc = s.pc := rfl
@[simp] theorem State.raise_idx (s : State) (c : FaultCause) (w : Word) : (s.raise c w).idx = s.idx := rfl
@[simp] theorem State.raise_stack (s : State) (c : FaultCause) (w : Word) : (s.raise c w).stack = s.stack := rfl
@[simp] theorem State.raise_sp (s : State) (c : FaultCause) (w : Word) : (s.raise c w).sp = s.sp := rfl
@[simp] theorem State.raise_dt (s : State) (c : FaultCause) (w : Word) : (s.raise c w).dt = s.dt := rfl
@[simp] theorem State.raise_st (s : State) (c : FaultCause) (w : Word) : (s.raise c w).st = s.st := rfl
@[simp] theorem State.raise_fb (s : State) (c : FaultCause) (w : Word) : (s.raise c w).fb = s.fb := rfl
@[simp] theorem State.raise_dirty (s : State) (c : FaultCause) (w : Word) : (s.raise c w).dirty = s.dirty := rfl
@[simp] theorem State.raise_key (s : State) (c : FaultCause) (w : Word) : (s.raise c w).key = s.key := rfl
@[simp] theorem State.raise_mem (s : State) (c : FaultCause) (w : Word) : (s.raise c w).mem = s.mem := rfl
@[simp] theorem State.raise_faultCause (s : State) (c : FaultCause) (w : Word) : (s.raise c w).faultCause = c := rfl
@[simp] theorem State.raise_faultPc (s : State) (c : FaultCause) (w : Word) : (s.raise c w).faultPc = s.pc := rfl
@[simp] theorem State.raise_faultInfo (s : State) (c : FaultCause) (w : Word) : (s.raise c w).faultInfo = w := rfl
@[simp] theorem State.raise_draws (s : State) (c : FaultCause) (w : Word) : (s.raise c w).draws = s.draws := rfl

/-! ### A conditional skip -/

@[simp] theorem State.skipIf_v (s : State) (c : Bool) : (s.skipIf c).v = s.v := by cases c <;> rfl
@[simp] theorem State.skipIf_pc (s : State) (c : Bool) : (s.skipIf c).pc = if c then s.pc + 2 else s.pc := by
  cases c <;> rfl
@[simp] theorem State.skipIf_idx (s : State) (c : Bool) : (s.skipIf c).idx = s.idx := by cases c <;> rfl
@[simp] theorem State.skipIf_stack (s : State) (c : Bool) : (s.skipIf c).stack = s.stack := by cases c <;> rfl
@[simp] theorem State.skipIf_sp (s : State) (c : Bool) : (s.skipIf c).sp = s.sp := by cases c <;> rfl
@[simp] theorem State.skipIf_dt (s : State) (c : Bool) : (s.skipIf c).dt = s.dt := by cases c <;> rfl
@[simp] theorem State.skipIf_st (s : State) (c : Bool) : (s.skipIf c).st = s.st := by cases c <;> rfl
@[simp] theorem State.skipIf_fb (s : State) (c : Bool) : (s.skipIf c).fb = s.fb := by cases c <;> rfl
@[simp] theorem State.skipIf_dirty (s : State) (c : Bool) : (s.skipIf c).dirty = s.dirty := by cases c <;> rfl
@[simp] theorem State.skipIf_key (s : State) (c : Bool) : (s.skipIf c).key = s.key := by cases c <;> rfl
@[simp] theorem State.skipIf_mem (s : State) (c : Bool) : (s.skipIf c).mem = s.mem := by cases c <;> rfl
@[simp] theorem State.skipIf_faultCause (s : State) (c : Bool) : (s.skipIf c).faultCause = s.faultCause := by cases c <;> rfl
@[simp] theorem State.skipIf_faultPc (s : State) (c : Bool) : (s.skipIf c).faultPc = s.faultPc := by cases c <;> rfl
@[simp] theorem State.skipIf_faultInfo (s : State) (c : Bool) : (s.skipIf c).faultInfo = s.faultInfo := by cases c <;> rfl
@[simp] theorem State.skipIf_draws (s : State) (c : Bool) : (s.skipIf c).draws = s.draws := by cases c <;> rfl

/-! ### A flag write -/

@[simp] theorem State.setFlag_v (s : State) (c : Bool) : (s.setFlag c).v = s.v.set flagReg (flagByte c) := rfl
@[simp] theorem State.setFlag_pc (s : State) (c : Bool) : (s.setFlag c).pc = s.pc := rfl
@[simp] theorem State.setFlag_idx (s : State) (c : Bool) : (s.setFlag c).idx = s.idx := rfl
@[simp] theorem State.setFlag_stack (s : State) (c : Bool) : (s.setFlag c).stack = s.stack := rfl
@[simp] theorem State.setFlag_sp (s : State) (c : Bool) : (s.setFlag c).sp = s.sp := rfl
@[simp] theorem State.setFlag_dt (s : State) (c : Bool) : (s.setFlag c).dt = s.dt := rfl
@[simp] theorem State.setFlag_st (s : State) (c : Bool) : (s.setFlag c).st = s.st := rfl
@[simp] theorem State.setFlag_fb (s : State) (c : Bool) : (s.setFlag c).fb = s.fb := rfl
@[simp] theorem State.setFlag_dirty (s : State) (c : Bool) : (s.setFlag c).dirty = s.dirty := rfl
@[simp] theorem State.setFlag_key (s : State) (c : Bool) : (s.setFlag c).key = s.key := rfl
@[simp] theorem State.setFlag_mem (s : State) (c : Bool) : (s.setFlag c).mem = s.mem := rfl
@[simp] theorem State.setFlag_faultCause (s : State) (c : Bool) : (s.setFlag c).faultCause = s.faultCause := rfl
@[simp] theorem State.setFlag_faultPc (s : State) (c : Bool) : (s.setFlag c).faultPc = s.faultPc := rfl
@[simp] theorem State.setFlag_faultInfo (s : State) (c : Bool) : (s.setFlag c).faultInfo = s.faultInfo := rfl
@[simp] theorem State.setFlag_draws (s : State) (c : Bool) : (s.setFlag c).draws = s.draws := rfl

/-! ### A flag and a result written -/

@[simp] theorem State.flagThenResult_pc (s : State) (x : RegNum) (c : Bool) (g : State → Byte) :
    (s.flagThenResult x c g).pc = s.pc := rfl
@[simp] theorem State.flagThenResult_idx (s : State) (x : RegNum) (c : Bool) (g : State → Byte) :
    (s.flagThenResult x c g).idx = s.idx := rfl
@[simp] theorem State.flagThenResult_stack (s : State) (x : RegNum) (c : Bool) (g : State → Byte) :
    (s.flagThenResult x c g).stack = s.stack := rfl
@[simp] theorem State.flagThenResult_sp (s : State) (x : RegNum) (c : Bool) (g : State → Byte) :
    (s.flagThenResult x c g).sp = s.sp := rfl
@[simp] theorem State.flagThenResult_dt (s : State) (x : RegNum) (c : Bool) (g : State → Byte) :
    (s.flagThenResult x c g).dt = s.dt := rfl
@[simp] theorem State.flagThenResult_st (s : State) (x : RegNum) (c : Bool) (g : State → Byte) :
    (s.flagThenResult x c g).st = s.st := rfl
@[simp] theorem State.flagThenResult_fb (s : State) (x : RegNum) (c : Bool) (g : State → Byte) :
    (s.flagThenResult x c g).fb = s.fb := rfl
@[simp] theorem State.flagThenResult_dirty (s : State) (x : RegNum) (c : Bool) (g : State → Byte) :
    (s.flagThenResult x c g).dirty = s.dirty := rfl
@[simp] theorem State.flagThenResult_key (s : State) (x : RegNum) (c : Bool) (g : State → Byte) :
    (s.flagThenResult x c g).key = s.key := rfl
@[simp] theorem State.flagThenResult_mem (s : State) (x : RegNum) (c : Bool) (g : State → Byte) :
    (s.flagThenResult x c g).mem = s.mem := rfl
@[simp] theorem State.flagThenResult_faultCause (s : State) (x : RegNum) (c : Bool) (g : State → Byte) :
    (s.flagThenResult x c g).faultCause = s.faultCause := rfl
@[simp] theorem State.flagThenResult_faultPc (s : State) (x : RegNum) (c : Bool) (g : State → Byte) :
    (s.flagThenResult x c g).faultPc = s.faultPc := rfl
@[simp] theorem State.flagThenResult_faultInfo (s : State) (x : RegNum) (c : Bool) (g : State → Byte) :
    (s.flagThenResult x c g).faultInfo = s.faultInfo := rfl
@[simp] theorem State.flagThenResult_draws (s : State) (x : RegNum) (c : Bool) (g : State → Byte) :
    (s.flagThenResult x c g).draws = s.draws := rfl

/-! ### A register block loaded -/

@[simp] theorem State.loadRegBlock_pc (s : State) (x : RegNum) (a : Nat) : (s.loadRegBlock x a).pc = s.pc := rfl
@[simp] theorem State.loadRegBlock_idx (s : State) (x : RegNum) (a : Nat) : (s.loadRegBlock x a).idx = s.idx := rfl
@[simp] theorem State.loadRegBlock_stack (s : State) (x : RegNum) (a : Nat) : (s.loadRegBlock x a).stack = s.stack := rfl
@[simp] theorem State.loadRegBlock_sp (s : State) (x : RegNum) (a : Nat) : (s.loadRegBlock x a).sp = s.sp := rfl
@[simp] theorem State.loadRegBlock_dt (s : State) (x : RegNum) (a : Nat) : (s.loadRegBlock x a).dt = s.dt := rfl
@[simp] theorem State.loadRegBlock_st (s : State) (x : RegNum) (a : Nat) : (s.loadRegBlock x a).st = s.st := rfl
@[simp] theorem State.loadRegBlock_fb (s : State) (x : RegNum) (a : Nat) : (s.loadRegBlock x a).fb = s.fb := rfl
@[simp] theorem State.loadRegBlock_dirty (s : State) (x : RegNum) (a : Nat) : (s.loadRegBlock x a).dirty = s.dirty := rfl
@[simp] theorem State.loadRegBlock_key (s : State) (x : RegNum) (a : Nat) : (s.loadRegBlock x a).key = s.key := rfl
@[simp] theorem State.loadRegBlock_mem (s : State) (x : RegNum) (a : Nat) : (s.loadRegBlock x a).mem = s.mem := rfl
@[simp] theorem State.loadRegBlock_faultCause (s : State) (x : RegNum) (a : Nat) : (s.loadRegBlock x a).faultCause = s.faultCause := rfl
@[simp] theorem State.loadRegBlock_faultPc (s : State) (x : RegNum) (a : Nat) : (s.loadRegBlock x a).faultPc = s.faultPc := rfl
@[simp] theorem State.loadRegBlock_faultInfo (s : State) (x : RegNum) (a : Nat) : (s.loadRegBlock x a).faultInfo = s.faultInfo := rfl
@[simp] theorem State.loadRegBlock_draws (s : State) (x : RegNum) (a : Nat) : (s.loadRegBlock x a).draws = s.draws := rfl

end Sys2Proof.Machine
end

