-- ==== Sys2Proof/Laws/Ops.lean ====
section
/-! SUPPORT. One lemma per shared operation that says everything it can do, so that callers do not unfold it. -/

namespace Sys2Proof.Machine

open Sys2Proof

/-! ### Registers and flags -/

@[simp] theorem State.reg_setReg (s : State) (x r : RegNum) (b : Byte) :
    (s.setReg x b).reg r = if r = x then b else s.reg r := by
  simp only [State.reg, State.setReg, Fin.getElem_fin, Vector.getElem_set, Fin.ext_iff, eq_comm]

@[simp] theorem State.reg_advance (s : State) (r : RegNum) : s.advance.reg r = s.reg r := rfl
@[simp] theorem State.reg_jumpTo (s : State) (w : Word) (r : RegNum) : (s.jumpTo w).reg r = s.reg r := rfl
@[simp] theorem State.reg_replay (s : State) (r : RegNum) : s.replay.reg r = s.reg r := rfl
@[simp] theorem State.reg_tick (s : State) (r : RegNum) : s.tick.reg r = s.reg r := rfl
@[simp] theorem State.reg_raise (s : State) (c : FaultCause) (w : Word) (r : RegNum) : (s.raise c w).reg r = s.reg r := rfl
@[simp] theorem State.reg_skipIf (s : State) (c : Bool) (r : RegNum) : (s.skipIf c).reg r = s.reg r := by cases c <;> rfl

theorem State.reg_setFlag (s : State) (c : Bool) (r : RegNum) :
    (s.setFlag c).reg r = if r = 15 then flagByte c else s.reg r := State.reg_setReg s flagReg r (flagByte c)

/-- The two writes of the arithmetic instructions (41_alu.md R112). -/
theorem State.reg_flagThenResult (s : State) (x r : RegNum) (c : Bool) (g : State → Byte) :
    (s.flagThenResult x c g).reg r =
      if r = x then g (s.setFlag c) else if r = 15 then flagByte c else s.reg r := by
  simp only [State.flagThenResult, State.reg_setReg, State.reg_setFlag]

@[simp] theorem State.reg_loadRegBlock (s : State) (x r : RegNum) (a : Nat) :
    (s.loadRegBlock x a).reg r = if r ≤ x then s.mem.read (a + r.val) else s.reg r := by
  simp [State.reg, State.loadRegBlock]

@[simp] theorem State.keyDown_tick (s : State) (k : KeyNum) : s.tick.keyDown k = s.keyDown k := rfl
@[simp] theorem State.keyDown_raise (s : State) (c : FaultCause) (w : Word) (k : KeyNum) :
    (s.raise c w).keyDown k = s.keyDown k := rfl

@[simp] theorem State.length_regBlock (s : State) (x : RegNum) : (s.regBlock x).length = x.val + 1 := by
  have := x.isLt
  simp only [State.regBlock, List.length_take, Vector.length_toList]
  omega

theorem State.getElem_regBlock (s : State) (x : RegNum) (j : Nat) (h : j < (s.regBlock x).length) :
    (s.regBlock x)[j] = s.reg ⟨j, by have := x.isLt; rw [State.length_regBlock] at h; omega⟩ := by
  simp [State.regBlock, State.reg]

/-- States with the same registers read alike, and conversely. -/
theorem State.v_eq_of_reg {s t : State} (h : ∀ r, t.reg r = s.reg r) : t.v = s.v :=
  Vector.ext fun i hi => h ⟨i, hi⟩

/-! ### Numbers -/

theorem flagByte_toNat (c : Bool) : (flagByte c).toNat = if c then 1 else 0 := by cases c <;> rfl

/-- A timer counts down by one and stops at 0 (60_exceptions.md R151). -/
theorem countDown_toNat (t : Byte) : (countDown t).toNat = t.toNat - 1 := by
  unfold countDown
  split
  · rename_i h
    rw [h]
    rfl
  · bv_omega

theorem absolute_toNat (nnn : Addr) : (absolute nnn).toNat = nnn.toNat := by
  have := nnn.isLt
  simp only [absolute, BitVec.toNat_setWidth]
  omega

theorem regRelative_toNat (v0 : Byte) (nnn : Addr) : (regRelative v0 nnn).toNat = v0.toNat + nnn.toNat := by
  have := v0.isLt
  have := nnn.isLt
  simp only [regRelative, BitVec.toNat_ofNat]
  omega

theorem byteInfo_toNat (b : Byte) : (byteInfo b).toNat = b.toNat := by
  have := b.isLt
  simp only [byteInfo, BitVec.toNat_setWidth]
  omega

theorem indexPlus_toNat (i : Addr) (k : Nat) : (indexPlus i k).toNat = (i.toNat + k) % 4096 := by
  simp [indexPlus]

theorem glyphAddr_toNat (b : Byte) : (glyphAddr b).toNat = b.toNat * 5 := by
  have := b.isLt
  simp only [glyphAddr, BitVec.toNat_ofNat]
  omega

theorem keyByte_toNat (k : KeyNum) : (keyByte k).toNat = k.val := by
  have := k.isLt
  simp only [keyByte, BitVec.toNat_ofNat]
  omega

@[simp] theorem bcdDigits_length (b : Byte) : (bcdDigits b).length = 3 := rfl

/-! ### The ends of a cycle -/

theorem complete_eq (t : State) : complete t = .next t.tick := rfl

theorem trap_eq (c : FaultCause) (w : Word) (s : State) : trap c w s = .next (s.raise c w) := rfl

@[simp] theorem complete_next {t u : State} : complete t = .next u ↔ t.tick = u := by
  simp [complete]

@[simp] theorem trap_next {c : FaultCause} {w : Word} {s u : State} : trap c w s = .next u ↔ s.raise c w = u := by
  simp [trap]

/-- An instruction that accesses memory completes, or faults on its highest address (60_exceptions.md R161). -/
theorem completeWithin_next {last : Nat} {t s u : State} :
    completeWithin last t s = .next u ↔
      (last < Config.memSize ∧ t.tick = u) ∨
      (Config.memSize ≤ last ∧ s.raise .memoryOutOfRange (.ofNat 16 last) = u) := by
  unfold completeWithin
  split
  · rename_i h
    simp [h, Nat.not_le.2 h]
  · rename_i h
    simp [h, Nat.not_lt.1 h]

/-! ### Stack and keys -/

/-- A push writes the slot at `sp` and increments it, or the stack is full (40_control.md R83). -/
theorem State.push_cases (s : State) (w : Word) :
    (s.push w = none ∧ s.sp.val = 16) ∨
    ∃ h : s.sp.val < 16, s.push w =
      some { s with stack := s.stack.set s.sp.val w, sp := ⟨s.sp.val + 1, by omega⟩ } := by
  unfold State.push
  split
  · exact .inr ⟨‹_›, rfl⟩
  · exact .inl ⟨rfl, by omega⟩

/-- A pop decrements `sp` and reads the slot, or the stack is empty (40_control.md R81). -/
theorem State.pop_cases (s : State) :
    (s.pop = none ∧ s.sp.val = 0) ∨
    ∃ h : 0 < s.sp.val, s.pop = some (s.stack[s.sp.val - 1], { s with sp := ⟨s.sp.val - 1, by omega⟩ }) := by
  unfold State.pop
  split
  · exact .inr ⟨‹_›, rfl⟩
  · exact .inl ⟨rfl, by omega⟩

theorem State.push_of_lt (s : State) (w : Word) (h : s.sp.val < 16) :
    s.push w = some { s with stack := s.stack.set s.sp.val w, sp := ⟨s.sp.val + 1, by omega⟩ } := by
  simp [State.push, h]

theorem State.push_of_full (s : State) (w : Word) (h : s.sp = 16) : s.push w = none := by
  simp [State.push, h]

theorem State.pop_of_pos (s : State) (h : 0 < s.sp.val) :
    s.pop = some (s.stack[s.sp.val - 1], { s with sp := ⟨s.sp.val - 1, by omega⟩ }) := by
  simp [State.pop, h]

theorem State.pop_of_empty (s : State) (h : s.sp = 0) : s.pop = none := by
  simp [State.pop, h]

/-- The scan finds the lowest-indexed pressed key (43_keypad_timer.md R133). -/
theorem State.lowestKey_eq_some {s : State} {k : KeyNum} :
    s.lowestKey = some k ↔ s.keyDown k = true ∧ ∀ j, j < k → s.keyDown j = false := by
  rw [State.lowestKey, List.find?_eq_some_iff_getElem]
  constructor
  · rintro ⟨hk, i, hi, he, hlt⟩
    refine ⟨hk, fun j hj => ?_⟩
    have hik : i = k.val := by simpa [Fin.ext_iff] using he
    have := hlt j.val (by rw [hik]; exact hj)
    simpa using this
  · rintro ⟨hk, hlt⟩
    refine ⟨hk, k.val, by simp, by simp, fun j hj => ?_⟩
    have := hlt ⟨j, by omega⟩ (by simpa [Fin.lt_def] using hj)
    simpa using this

theorem State.lowestKey_eq_none {s : State} : s.lowestKey = none ↔ ∀ k, s.keyDown k = false := by
  simp [State.lowestKey]

theorem keyIndex_of_lt {b : Byte} (h : b.toNat < 16) : keyIndex b = some ⟨b.toNat, h⟩ := by
  simp [keyIndex, h]

theorem keyIndex_of_ge {b : Byte} (h : 16 ≤ b.toNat) : keyIndex b = none := by
  simp [keyIndex]
  omega

/-! ### The framebuffer -/

/-- Flipping a cell changes that cell and no other (42_display.md R122). -/
theorem cellAt_flipCell (fb : Framebuffer) {k : Nat} (hk : k < 2048) (j : Nat) :
    cellAt (flipCell fb k) j = (cellAt fb j ^^ decide (j = k)) := by
  have hk' : k / 64 < 32 := by omega
  unfold cellAt flipCell
  rw [Vector.getElem?_setIfInBounds]
  by_cases h1 : k / 64 = j / 64
  · have hj : j / 64 < 32 := by omega
    by_cases h2 : j % 64 = k % 64
    · have h3 : j = k := by omega
      simp [h3, hk', Nat.mod_lt]
    · have h3 : j ≠ k := by omega
      simp [h1, hj, h3, BitVec.getLsbD_twoPow, Ne.symm h2]
  · have h3 : j ≠ k := by
      rintro rfl
      exact h1 rfl
    simp [h1, h3]

theorem cellAt_clearScreen (k : Nat) : cellAt clearScreen k = false := by
  unfold cellAt clearScreen
  rw [Vector.getElem?_replicate]
  split <;> simp

/-- Framebuffers whose 2048 cells read alike are equal. -/
theorem framebuffer_ext {f g : Framebuffer} (h : ∀ k, k < 2048 → cellAt f k = cellAt g k) : f = g := by
  refine Vector.ext fun i hi => BitVec.eq_of_getLsbD_eq fun j hj => ?_
  have := h (i * 64 + j) (by omega)
  have hd : (i * 64 + j) / 64 = i := by omega
  have hm : (i * 64 + j) % 64 = j := by omega
  simpa [cellAt, hd, hm, hi] using this

/-! ### The start of a cycle -/

/-- What the start of a cycle can lead to, with the tests that led there (60_exceptions.md R150, R163). -/
theorem State.fetch_cases (s : State) :
    (s.faultCause ≠ .none ∧ s.fetch = .halted) ∨
    (s.faultCause = .none ∧ 0xFFE < s.pc.toNat ∧ s.fetch = .pcOutOfRange) ∨
    (s.faultCause = .none ∧ s.pc.toNat ≤ 0xFFE ∧ decodeWord s.fetchWord = none ∧
      s.fetch = .unrecognized s.fetchWord) ∨
    ∃ i, s.faultCause = .none ∧ s.pc.toNat ≤ 0xFFE ∧ decodeWord s.fetchWord = some i ∧ s.fetch = .instr i := by
  unfold State.fetch State.halted State.pcInRange lastFetchPc
  by_cases h : s.faultCause = .none
  · by_cases hp : s.pc.toNat ≤ 0xFFE
    · cases hd : decodeWord s.fetchWord with
      | none => simp [h, hp]
      | some i => simp [h, hp]
    · simp [h, hp]
      omega
  · simp [h]

/-- Everything a cycle can do (60_exceptions.md R150). -/
theorem step_cases (s : State) :
    (s.faultCause ≠ .none ∧ step s = .next s) ∨
    (s.faultCause = .none ∧ 0xFFE < s.pc.toNat ∧ step s = .next (s.raise .pcOutOfRange s.pc)) ∨
    (s.faultCause = .none ∧ s.pc.toNat ≤ 0xFFE ∧ decodeWord s.fetchWord = none ∧
      step s = .next (s.raise .unrecognizedOpcode s.fetchWord)) ∨
    ∃ i, s.faultCause = .none ∧ s.pc.toNat ≤ 0xFFE ∧ decodeWord s.fetchWord = some i ∧ step s = exec i s := by
  rcases State.fetch_cases s with ⟨h, hf⟩ | ⟨h, hp, hf⟩ | ⟨h, hp, hd, hf⟩ | ⟨i, h, hp, hd, hf⟩
  · exact .inl ⟨h, by simp [step, hf]⟩
  · exact .inr (.inl ⟨h, hp, by simp [step, hf, trap]⟩)
  · exact .inr (.inr (.inl ⟨h, hp, hd, by simp [step, hf, trap]⟩))
  · exact .inr (.inr (.inr ⟨i, h, hp, hd, by simp [step, hf]⟩))

end Sys2Proof.Machine
end

