-- ==== Sys2Proof/Laws/Cycle.lean ====
section
/-! SUPPORT. Frames, the step of a fetched instruction, and runs of several cycles. -/

namespace Sys2Proof.Machine

open Sys2Proof

theorem UnchangedBut.refl (written : List Part) (s : State) : UnchangedBut written s s := by
  intro p _
  cases p <;> simp [Part.Same]

theorem UnchangedBut.trans {written : List Part} {s t u : State} (h : UnchangedBut written s t)
    (h' : UnchangedBut written t u) : UnchangedBut written s u := by
  intro p hp
  have h1 := h p hp
  have h2 := h' p hp
  cases p <;> simp_all [Part.Same]

theorem UnchangedBut.mono {written written' : List Part} {s t : State} (h : UnchangedBut written s t)
    (hsub : ∀ p ∈ written, p ∈ written') : UnchangedBut written' s t :=
  fun p hp => h p fun hw => hp (hsub p hw)

/-- A raised fault writes the latch and nothing else (60_exceptions.md R152, R153). -/
theorem faulted_raise (s : State) (c : FaultCause) (w : Word) : Faulted c w s (s.raise c w) := by
  refine ⟨?_, rfl, rfl, rfl⟩
  intro p hp
  cases p <;> simp_all [Part.Same]

/-- Two advances of 2, the step over a skipped instruction (00_scope.md R7). -/
theorem add_two_add_two (p : Word) : p + 2 + 2 = p + 4 := by bv_omega

/-- A running core runs the instruction it fetches (60_exceptions.md R150). -/
theorem step_of_fetches {s : State} {i : Instr} (h : Fetches s i) : step s = exec i s := by
  rcases step_cases s with ⟨hf, _⟩ | ⟨_, hp, _⟩ | ⟨_, _, hd, _⟩ | ⟨j, _, _, hd, hs⟩
  · exact absurd h.running hf
  · have := h.inRange
    omega
  · rw [h.decodes] at hd
    cases hd
  · rw [h.decodes] at hd
    cases hd
    exact hs

/-- What is fetched depends on the latch, `pc` and memory only. -/
theorem Fetches.of_unchanged {s t : State} {i : Instr} {written : List Part} (h : Fetches s i)
    (hu : UnchangedBut written s t) (hl : Part.latch ∉ written) (hp : Part.pc ∉ written)
    (hm : Part.memory ∉ written) : Fetches t i := by
  have h1 := hu _ hl
  have h2 := hu _ hp
  have h3 := hu _ hm
  simp only [Part.Same] at h1 h2 h3
  have hd := h.decodes
  refine ⟨h1.1.trans h.running, h2 ▸ h.inRange, ?_⟩
  simpa [State.fetchWord, Memory.readWord, h2, h3] using hd

theorem hostRun_succ (M : Host.Core) (n : Nat) {s t : M.State} (h : M.step s = .next t) :
    M.run (n + 1) s = M.run n t := by
  rw [Host.Core.run, h]

/-- One cycle taken off the front of a run. -/
theorem run_succ (n : Nat) {s t : State} (h : step s = .next t) :
    Host.Core.run Sys2Proof.core (n + 1) s = Host.Core.run Sys2Proof.core n t :=
  hostRun_succ Sys2Proof.core n h

end Sys2Proof.Machine
end

