-- ==== Sys2Proof/Laws/Decode.lean ====
section
/-! SUPPORT. The fields of a word that was put together from fields, and the bytes of a word. -/

namespace Sys2Proof.Laws

open Sys2Proof

theorem extractLsb'_append_high {a b : Nat} (x : BitVec a) (y : BitVec b) : (x ++ y).extractLsb' b a = x := by
  ext i hi
  simp [BitVec.getLsbD_append, BitVec.getLsbD_eq_getElem hi]

theorem extractLsb'_append_low {a b k n : Nat} (x : BitVec a) (y : BitVec b) (h : k + n ≤ b) :
    (x ++ y).extractLsb' k n = y.extractLsb' k n := by
  ext i hi
  have : k + i < b := by omega
  simp [BitVec.getLsbD_append, this]

/-- The fields of a word of format A (30_encoding.md R61). -/
theorem ofWord_formatA (g : Nibble) (nnn : Addr) :
    (Fields.ofWord (formatA g nnn)).g = g ∧ (Fields.ofWord (formatA g nnn)).nnn = nnn := by
  refine ⟨extractLsb'_append_high g nnn, (extractLsb'_append_low g nnn (by decide)).trans ?_⟩
  simp

/-- The fields of a word of formats XK, X and Z (30_encoding.md R61). -/
theorem ofWord_formatXK (g x : Nibble) (kk : Byte) :
    (Fields.ofWord (formatXK g x kk)).g = g ∧ (Fields.ofWord (formatXK g x kk)).x = x ∧
      (Fields.ofWord (formatXK g x kk)).kk = kk := by
  refine ⟨extractLsb'_append_high g (x ++ kk), (extractLsb'_append_low g (x ++ kk) (by decide)).trans
    (extractLsb'_append_high x kk), (extractLsb'_append_low g (x ++ kk) (by decide)).trans
    ((extractLsb'_append_low x kk (by decide)).trans ?_)⟩
  simp

/-- The fields of a word of formats XY and XYN (30_encoding.md R61). -/
theorem ofWord_formatXYN (g x y n : Nibble) :
    (Fields.ofWord (formatXYN g x y n)).g = g ∧ (Fields.ofWord (formatXYN g x y n)).x = x ∧
      (Fields.ofWord (formatXYN g x y n)).y = y ∧ (Fields.ofWord (formatXYN g x y n)).n = n := by
  refine ⟨extractLsb'_append_high g (x ++ (y ++ n)), (extractLsb'_append_low g (x ++ (y ++ n)) (by decide)).trans
    (extractLsb'_append_high x (y ++ n)), (extractLsb'_append_low g (x ++ (y ++ n)) (by decide)).trans
    ((extractLsb'_append_low x (y ++ n) (by decide)).trans (extractLsb'_append_high y n)),
    (extractLsb'_append_low g (x ++ (y ++ n)) (by decide)).trans
    ((extractLsb'_append_low x (y ++ n) (by decide)).trans ((extractLsb'_append_low y n (by decide)).trans ?_))⟩
  simp

/-- Two slices that meet are one slice. -/
theorem extractLsb'_append_extractLsb' {w : Nat} (op : BitVec w) (k a b : Nat) :
    op.extractLsb' (k + b) a ++ op.extractLsb' k b = op.extractLsb' k (a + b) := by
  ext i hi
  rw [BitVec.getElem_append]
  simp only [BitVec.getElem_extractLsb']
  split
  · rfl
  · rename_i h
    rw [show k + b + (i - b) = k + i by omega]

/-- Every word is its group and the 12 bits below it. -/
theorem append_nnn (op : Word) : (Fields.ofWord op).g ++ (Fields.ofWord op).nnn = op :=
  (extractLsb'_append_extractLsb' op 0 4 12).trans (by simp)

/-- The 12-bit field is x and the low byte side by side. -/
theorem x_append_kk (op : Word) : (Fields.ofWord op).x ++ (Fields.ofWord op).kk = (Fields.ofWord op).nnn :=
  extractLsb'_append_extractLsb' op 0 4 8

/-- The low byte is y and n side by side. -/
theorem y_append_n (op : Word) : (Fields.ofWord op).y ++ (Fields.ofWord op).n = (Fields.ofWord op).kk :=
  extractLsb'_append_extractLsb' op 0 4 4

/-- A word is put together again from its two bytes (20_memory.md R40). -/
theorem wordOfBytes_bytesOfWord (w : Word) : wordOfBytes (w.extractLsb' 8 8) (w.extractLsb' 0 8) = w :=
  (extractLsb'_append_extractLsb' w 0 8 8).trans (by simp)

end Sys2Proof.Laws
end

