-- ==== Sys2Proof/Laws/Display.lean ====
section
/-! SUPPORT. The laws of sprite drawing: the loops of 42_display.md R122 are one fold over the list of target cells, no
cell is plotted twice, so a cell ends flipped exactly when it is a target (R123). -/

namespace Sys2Proof.Machine

open Sys2Proof

/-- The target cells of a sprite, in the order in which they are plotted. -/
def spriteCells (w : Config.DrawWrap) (vx vy : Nat) : Nat → List Byte → List Nat
  | _, [] => []
  | row, b :: bs =>
    ((List.range 8).filter fun col => b.getLsbD (7 - col)).map (targetCell w vx vy row)
      ++ spriteCells w vx vy (row + 1) bs

theorem Canvas.plotRow_eq_foldl (w : Config.DrawWrap) (vx vy row : Nat) (b : Byte) (c : Canvas) :
    c.plotRow w vx vy row b =
      (((List.range 8).filter fun col => b.getLsbD (7 - col)).map (targetCell w vx vy row)).foldl Canvas.plot c := by
  rw [List.foldl_map, List.foldl_filter]
  rfl

theorem Canvas.plotRows_eq_foldl (w : Config.DrawWrap) (vx vy row : Nat) (bs : List Byte) (c : Canvas) :
    Canvas.plotRows w vx vy row bs c = (spriteCells w vx vy row bs).foldl Canvas.plot c := by
  induction bs generalizing row c with
  | nil => rfl
  | cons b bs ih => rw [Canvas.plotRows, ih, Canvas.plotRow_eq_foldl, spriteCells, List.foldl_append]

theorem mem_spriteCells {w : Config.DrawWrap} {vx vy row k : Nat} {bs : List Byte} :
    k ∈ spriteCells w vx vy row bs ↔
      ∃ r col, ∃ h : r < bs.length, col < 8 ∧ bs[r].getLsbD (7 - col) = true ∧ k = targetCell w vx vy (row + r) col := by
  induction bs generalizing row with
  | nil => simp [spriteCells]
  | cons b bs ih =>
    simp only [spriteCells, List.mem_append, List.mem_map, List.mem_filter, List.mem_range, ih]
    constructor
    · rintro (⟨col, ⟨hc, hb⟩, rfl⟩ | ⟨r, col, h, hc, hb, rfl⟩)
      · exact ⟨0, col, by simp, hc, hb, rfl⟩
      · exact ⟨r + 1, col, by simpa using h, hc, hb, by rw [Nat.add_assoc, Nat.add_comm 1]⟩
    · rintro ⟨r, col, h, hc, hb, rfl⟩
      cases r with
      | zero => exact .inl ⟨col, ⟨hc, hb⟩, rfl⟩
      | succ r => exact .inr ⟨r, col, by simpa using h, hc, hb, by rw [Nat.add_assoc, Nat.add_comm 1]⟩

theorem targetCell_lt (w : Config.DrawWrap) (vx vy row col : Nat) : targetCell w vx vy row col < 2048 := by
  cases w <;> simp only [targetCell] <;> omega

/-- No two pixels of one sprite land on the same cell (42_display.md R123 b). -/
theorem targetCell_injective (w : Config.DrawWrap) (vx vy : Nat) {r r' c c' : Nat} (hr : r < 15) (hr' : r' < 15)
    (hc : c < 8) (hc' : c' < 8) (h : targetCell w vx vy r c = targetCell w vx vy r' c') : r = r' ∧ c = c' := by
  cases w <;> simp only [targetCell] at h <;> omega

theorem nodup_spriteCells (w : Config.DrawWrap) (vx vy row : Nat) (bs : List Byte) (h : row + bs.length ≤ 15) :
    (spriteCells w vx vy row bs).Nodup := by
  induction bs generalizing row with
  | nil => exact List.nodup_nil
  | cons b bs ih =>
    simp only [List.length_cons] at h
    rw [spriteCells, List.nodup_append]
    refine ⟨?_, ih (row + 1) (by omega), ?_⟩
    · refine List.Nodup.map_on ?_ (List.nodup_range.filter _)
      intro c hc c' hc' he
      simp only [List.mem_filter, List.mem_range] at hc hc'
      exact (targetCell_injective w vx vy (by omega) (by omega) hc.1 hc'.1 he).2
    · intro k hk k' hk' he
      simp only [List.mem_map, List.mem_filter, List.mem_range] at hk
      obtain ⟨c, ⟨hc, -⟩, rfl⟩ := hk
      obtain ⟨r, c', hr, hc', -, rfl⟩ := mem_spriteCells.1 hk'
      have := (targetCell_injective w vx vy (by omega) (by omega) hc hc' he).1
      omega

/-- Plotting a list of distinct cells flips exactly those, and the hit says whether one of them was set before. -/
theorem foldl_plot (ks : List Nat) (hlt : ∀ k ∈ ks, k < 2048) (hnd : ks.Nodup) (c : Canvas) :
    (∀ j, cellAt (ks.foldl Canvas.plot c).fb j = (cellAt c.fb j ^^ decide (j ∈ ks))) ∧
    ((ks.foldl Canvas.plot c).hit = true ↔ c.hit = true ∨ ∃ k ∈ ks, cellAt c.fb k = true) := by
  induction ks generalizing c with
  | nil => simp
  | cons k ks ih =>
    obtain ⟨hk, hks⟩ := List.nodup_cons.1 hnd
    obtain ⟨ih1, ih2⟩ := ih (fun a ha => hlt a (List.mem_cons_of_mem _ ha)) hks (c.plot k)
    have hk' : k < 2048 := hlt k List.mem_cons_self
    rw [List.foldl_cons]
    refine ⟨fun j => ?_, ih2.trans ?_⟩
    · rw [ih1, Canvas.plot, cellAt_flipCell _ hk']
      by_cases hj : j = k
      · subst hj
        simp [hk]
      · simp [hj]
    · simp only [Canvas.plot, Bool.or_eq_true, List.mem_cons, exists_eq_or_imp, or_assoc]
      refine or_congr_right (or_congr_right ?_)
      refine exists_congr fun a => and_congr_right fun ha => ?_
      have : a ≠ k := by
        rintro rfl
        exact hk ha
      simp [cellAt_flipCell _ hk', this]

/-- What drawing a sprite of at most 15 rows leaves (42_display.md R122, R123 b). -/
theorem Canvas.plotRows_spec (w : Config.DrawWrap) (vx vy : Nat) (bs : List Byte) (h : bs.length ≤ 15)
    (fb : Framebuffer) :
    (∀ j, cellAt (Canvas.plotRows w vx vy 0 bs ⟨fb, false⟩).fb j =
      (cellAt fb j ^^ decide (j ∈ spriteCells w vx vy 0 bs))) ∧
    ((Canvas.plotRows w vx vy 0 bs ⟨fb, false⟩).hit = true ↔
      ∃ k ∈ spriteCells w vx vy 0 bs, cellAt fb k = true) := by
  rw [Canvas.plotRows_eq_foldl]
  have hs := foldl_plot (spriteCells w vx vy 0 bs)
    (fun k hk => by obtain ⟨r, col, _, _, _, rfl⟩ := mem_spriteCells.1 hk; exact targetCell_lt w vx vy _ col)
    (nodup_spriteCells w vx vy 0 bs (by omega)) ⟨fb, false⟩
  exact ⟨hs.1, hs.2.trans (by simp)⟩

@[simp] theorem State.drawSprite_pc (s : State) (x y : RegNum) (n : Nat) : (s.drawSprite x y n).pc = s.pc := rfl
@[simp] theorem State.drawSprite_idx (s : State) (x y : RegNum) (n : Nat) : (s.drawSprite x y n).idx = s.idx := rfl
@[simp] theorem State.drawSprite_stack (s : State) (x y : RegNum) (n : Nat) : (s.drawSprite x y n).stack = s.stack := rfl
@[simp] theorem State.drawSprite_sp (s : State) (x y : RegNum) (n : Nat) : (s.drawSprite x y n).sp = s.sp := rfl
@[simp] theorem State.drawSprite_dt (s : State) (x y : RegNum) (n : Nat) : (s.drawSprite x y n).dt = s.dt := rfl
@[simp] theorem State.drawSprite_st (s : State) (x y : RegNum) (n : Nat) : (s.drawSprite x y n).st = s.st := rfl
@[simp] theorem State.drawSprite_dirty (s : State) (x y : RegNum) (n : Nat) : (s.drawSprite x y n).dirty = true := rfl
@[simp] theorem State.drawSprite_key (s : State) (x y : RegNum) (n : Nat) : (s.drawSprite x y n).key = s.key := rfl
@[simp] theorem State.drawSprite_mem (s : State) (x y : RegNum) (n : Nat) : (s.drawSprite x y n).mem = s.mem := rfl
@[simp] theorem State.drawSprite_faultCause (s : State) (x y : RegNum) (n : Nat) :
    (s.drawSprite x y n).faultCause = s.faultCause := rfl
@[simp] theorem State.drawSprite_faultPc (s : State) (x y : RegNum) (n : Nat) :
    (s.drawSprite x y n).faultPc = s.faultPc := rfl
@[simp] theorem State.drawSprite_faultInfo (s : State) (x y : RegNum) (n : Nat) :
    (s.drawSprite x y n).faultInfo = s.faultInfo := rfl
@[simp] theorem State.drawSprite_draws (s : State) (x y : RegNum) (n : Nat) : (s.drawSprite x y n).draws = s.draws := rfl

/-- The registers after a draw: only the flag is written (42_display.md R122). -/
theorem State.reg_drawSprite (s : State) (x y r : RegNum) (n : Nat) :
    (s.drawSprite x y n).reg r =
      if r = 15 then
        flagByte (Canvas.plotRows Config.drawWrap (s.reg x).toNat (s.reg y).toNat 0 (s.mem.readBytes s.idx.toNat n)
          ⟨s.fb, false⟩).hit
      else s.reg r := State.reg_setFlag s _ r

end Sys2Proof.Machine
end

