-- ==== Sys2Proof/Laws/Memory.lean ====
section
/-! SUPPORT. The laws of memory: read after write, every operation keeps the canonical form, and memories that read alike
are equal. -/

namespace Sys2Proof.Machine

open Sys2Proof

theorem Memory.wfFrom_cons {lo k : Nat} {c : Byte} {m : Memory} :
    Memory.wfFrom lo ((k, c) :: m) = true ↔
      lo ≤ k ∧ k < Config.memSize ∧ c ≠ resetByte k ∧ Memory.wfFrom (k + 1) m = true := by
  simp [Memory.wfFrom, and_assoc]

theorem Memory.wfFrom_mono {lo lo' : Nat} {m : Memory} (h : Memory.wfFrom lo m = true) (hle : lo' ≤ lo) :
    Memory.wfFrom lo' m = true := by
  cases m with
  | nil => rfl
  | cons p m =>
    rw [Memory.wfFrom_cons] at h ⊢
    exact ⟨hle.trans h.1, h.2⟩

/-- Below its first address a canonical memory reads as after reset. -/
theorem Memory.read_below {lo a : Nat} {m : Memory} (h : Memory.wfFrom lo m = true) (ha : a < lo) :
    m.read a = resetByte a := by
  induction m generalizing lo with
  | nil => rfl
  | cons p m ih =>
    rw [Memory.wfFrom_cons] at h
    have hne : p.1 ≠ a := by omega
    simpa [Memory.read, hne] using ih h.2.2.2 (by omega)

theorem Memory.wfFrom_consCell {lo a : Nat} {b : Byte} {m : Memory} (h : Memory.wfFrom (a + 1) m = true)
    (hlo : lo ≤ a) (ha : a < Config.memSize) : Memory.wfFrom lo (Memory.cons a b m) = true := by
  unfold Memory.cons
  split
  · exact Memory.wfFrom_mono h (by omega)
  · rw [Memory.wfFrom_cons]
    exact ⟨hlo, ha, ‹_›, h⟩

theorem Memory.read_consCell {a k : Nat} {b : Byte} {m : Memory} (h : Memory.wfFrom (a + 1) m = true) :
    (Memory.cons a b m).read k = if k = a then b else m.read k := by
  unfold Memory.cons
  split
  · rename_i hb
    split
    · rename_i hk
      rw [hk, Memory.read_below h (by omega), hb]
    · rfl
  · simp only [Memory.read, eq_comm]

theorem Memory.read_consCell_ne {a k : Nat} (b : Byte) (m : Memory) (hk : k ≠ a) :
    (Memory.cons a b m).read k = m.read k := by
  unfold Memory.cons
  split
  · rfl
  · simp [Memory.read, Ne.symm hk]

theorem Memory.wfFrom_put {lo a : Nat} {m : Memory} (h : Memory.wfFrom lo m = true) (hlo : lo ≤ a)
    (ha : a < Config.memSize) (b : Byte) : Memory.wfFrom lo (m.put a b) = true := by
  induction m generalizing lo with
  | nil => exact Memory.wfFrom_consCell (m := []) rfl hlo ha
  | cons p m ih =>
    rw [Memory.wfFrom_cons] at h
    simp only [Memory.put]
    split
    · exact Memory.wfFrom_consCell (Memory.wfFrom_cons.2 ⟨by omega, h.2.1, h.2.2.1, h.2.2.2⟩) hlo ha
    · split
      · exact Memory.wfFrom_consCell (by simp_all) hlo ha
      · exact Memory.wfFrom_cons.2 ⟨h.1, h.2.1, h.2.2.1, ih h.2.2.2 (by omega)⟩

theorem Memory.read_put {lo a : Nat} {m : Memory} (h : Memory.wfFrom lo m = true) (b : Byte) (k : Nat) :
    (m.put a b).read k = if k = a then b else m.read k := by
  induction m generalizing lo with
  | nil => exact Memory.read_consCell (m := []) rfl
  | cons p m ih =>
    rw [Memory.wfFrom_cons] at h
    simp only [Memory.put]
    split
    · exact Memory.read_consCell (Memory.wfFrom_cons.2 ⟨by omega, h.2.1, h.2.2.1, h.2.2.2⟩)
    · split
      · rename_i ha
        rw [Memory.read_consCell (by rw [ha]; exact h.2.2.2)]
        split
        · rfl
        · have : p.1 ≠ k := by omega
          simp [Memory.read, this]
      · simp only [Memory.read, ih h.2.2.2]
        split
        · rw [if_neg (by omega)]
        · rfl

theorem Memory.read_put_ne {a k : Nat} (m : Memory) (b : Byte) (hk : k ≠ a) : (m.put a b).read k = m.read k := by
  induction m with
  | nil => exact Memory.read_consCell_ne b [] hk
  | cons p m ih =>
    simp only [Memory.put]
    split
    · exact Memory.read_consCell_ne b _ hk
    · split
      · rw [Memory.read_consCell_ne b _ hk]
        have : p.1 ≠ k := by omega
        simp [Memory.read, this]
      · simp only [Memory.read, ih]

/-- A store keeps the canonical form. -/
theorem Memory.wf_write {m : Memory} (h : m.wf = true) (a : Nat) (b : Byte) : (m.write a b).wf = true := by
  unfold Memory.write
  split
  · exact Memory.wfFrom_put h (Nat.zero_le _) ‹_› b
  · exact h

/-- Read after write (20_memory.md R45). -/
theorem Memory.read_write {m : Memory} (h : m.wf = true) {a : Nat} (ha : a < Config.memSize) (b : Byte) (k : Nat) :
    (m.write a b).read k = if k = a then b else m.read k := by
  rw [Memory.write, if_pos ha]
  exact Memory.read_put h b k

/-- A store changes no other byte, in any memory. -/
theorem Memory.read_write_ne (m : Memory) {a k : Nat} (b : Byte) (hk : k ≠ a) : (m.write a b).read k = m.read k := by
  unfold Memory.write
  split
  · exact Memory.read_put_ne m b hk
  · rfl

/-- A sequence of stores keeps the canonical form. -/
theorem Memory.wf_writeBytes {m : Memory} (h : m.wf = true) (a : Nat) (bs : List Byte) :
    (m.writeBytes a bs).wf = true := by
  induction bs generalizing m a with
  | nil => exact h
  | cons b bs ih => exact ih (Memory.wf_write h a b) (a + 1)

/-- A sequence of stores changes no byte outside its range, in any memory. -/
theorem Memory.read_writeBytes_outside (m : Memory) {a k : Nat} (bs : List Byte) (hk : k < a ∨ a + bs.length ≤ k) :
    (m.writeBytes a bs).read k = m.read k := by
  induction bs generalizing m a with
  | nil => rfl
  | cons b bs ih =>
    simp only [List.length_cons] at hk
    rw [Memory.writeBytes, ih _ (by omega), Memory.read_write_ne m b (by omega)]

/-- A sequence of stores leaves its bytes at ascending addresses (20_memory.md R41). -/
theorem Memory.read_writeBytes {m : Memory} (h : m.wf = true) {a : Nat} (bs : List Byte)
    (ha : a + bs.length ≤ Config.memSize) (j : Nat) (hj : j < bs.length) :
    (m.writeBytes a bs).read (a + j) = bs[j] := by
  induction bs generalizing m a j with
  | nil => exact absurd hj (Nat.not_lt_zero _)
  | cons b bs ih =>
    simp only [List.length_cons] at ha hj
    cases j with
    | zero =>
      rw [Memory.writeBytes, Memory.read_writeBytes_outside _ bs (by omega), Memory.read_write h (by omega)]
      simp
    | succ j =>
      have := ih (Memory.wf_write h a b) (a := a + 1) (by omega) j (by omega)
      rw [Memory.writeBytes, ← Nat.add_assoc, Nat.add_right_comm, this]
      rfl

/-- Canonical memories that read alike are equal. -/
theorem Memory.ext_of_wfFrom {lo : Nat} {m m' : Memory} (h : Memory.wfFrom lo m = true)
    (h' : Memory.wfFrom lo m' = true) (hr : ∀ a, m.read a = m'.read a) : m = m' := by
  induction m generalizing lo m' with
  | nil =>
    cases m' with
    | nil => rfl
    | cons p' m' =>
      rw [Memory.wfFrom_cons] at h'
      exact absurd (hr p'.1).symm (by simpa [Memory.read] using h'.2.2.1)
  | cons p m ih =>
    obtain ⟨k, c⟩ := p
    rw [Memory.wfFrom_cons] at h
    cases m' with
    | nil => exact absurd (hr k) (by simpa [Memory.read] using h.2.2.1)
    | cons p' m' =>
      obtain ⟨k', c'⟩ := p'
      rw [Memory.wfFrom_cons] at h'
      have hk : k = k' := by
        rcases Nat.lt_trichotomy k k' with hlt | heq | hgt
        · have := hr k
          rw [Memory.read_below (lo := k') (Memory.wfFrom_cons.2 ⟨le_refl _, h'.2⟩) hlt] at this
          exact absurd this (by simpa [Memory.read] using h.2.2.1)
        · exact heq
        · have := hr k'
          rw [Memory.read_below (lo := k) (Memory.wfFrom_cons.2 ⟨le_refl _, h.2⟩) hgt] at this
          exact absurd this.symm (by simpa [Memory.read] using h'.2.2.1)
      subst hk
      have hc : c = c' := by simpa [Memory.read] using hr k
      subst hc
      rw [ih h.2.2.2 h'.2.2.2 fun a => ?_]
      by_cases ha : k = a
      · rw [← ha, Memory.read_below h.2.2.2 (by omega), Memory.read_below h'.2.2.2 (by omega)]
      · simpa [Memory.read, ha] using hr a

/-- Canonical memories that read alike are equal data. -/
theorem Memory.ext {m m' : Memory} (h : m.wf = true) (h' : m'.wf = true) (hr : ∀ a, m.read a = m'.read a) : m = m' :=
  Memory.ext_of_wfFrom h h' hr

@[simp] theorem Memory.length_readBytes (m : Memory) (a n : Nat) : (m.readBytes a n).length = n := by
  simp [Memory.readBytes]

@[simp] theorem Memory.getElem_readBytes (m : Memory) (a n j : Nat) (h : j < (m.readBytes a n).length) :
    (m.readBytes a n)[j] = m.read (a + j) := by
  simp [Memory.readBytes]

end Sys2Proof.Machine
end

