-- ==== Sys2Proof/Laws/PerInstr.lean ====
section
/-! SUPPORT. Per-instruction families over the syntax. RowOf: the word of an instruction selects the instruction's row of
the opcode table (30_encoding.md R66), which is one of the 34 rows. -/

namespace Sys2Proof.Laws

open Sys2Proof

theorem formatA_masked (g : Nibble) (nnn : Addr) : formatA g nnn &&& 0xF000#16 = g ++ 0#12 := by
  rw [show 0xF000#16 = 0xF#4 ++ 0#12 from rfl, formatA, BitVec.and_append, BitVec.and_zero,
    show (0xF#4 : Nibble) = BitVec.allOnes 4 from rfl, BitVec.and_allOnes]

theorem formatXK_masked (g x : Nibble) (kk : Byte) :
    formatXK g x kk &&& 0xF000#16 = g ++ 0#12 := formatA_masked g _

theorem formatXYN_masked (g x y n : Nibble) :
    formatXYN g x y n &&& 0xF000#16 = g ++ 0#12 := formatA_masked g _

theorem formatXK_masked_byte (g x : Nibble) (kk : Byte) :
    formatXK g x kk &&& 0xF0FF#16 = g ++ (0#4 ++ kk) := by
  rw [show 0xF0FF#16 = 0xF#4 ++ (0#4 ++ 0xFF#8) from rfl, formatXK, BitVec.and_append, BitVec.and_append,
    BitVec.and_zero, show (0xF#4 : Nibble) = BitVec.allOnes 4 from rfl, BitVec.and_allOnes,
    show (0xFF#8 : Byte) = BitVec.allOnes 8 from rfl, BitVec.and_allOnes]

theorem formatXYN_masked_nibble (g x y n : Nibble) :
    formatXYN g x y n &&& 0xF00F#16 = g ++ (0#4 ++ (0#4 ++ n)) := by
  rw [show 0xF00F#16 = 0xF#4 ++ (0#4 ++ (0#4 ++ 0xF#4)) from rfl, formatXYN, BitVec.and_append, BitVec.and_append,
    BitVec.and_append, BitVec.and_zero, BitVec.and_zero, show (0xF#4 : Nibble) = BitVec.allOnes 4 from rfl,
    BitVec.and_allOnes, BitVec.and_allOnes]

namespace RowOf

/-- The word of `i` selects the row of `i`, and that row is in the opcode table. -/
def Statement (i : Instr) : Prop := (opcodeRow i).selects (encode i) = true ∧ opcodeRow i ∈ opcodeTable

theorem opcodeRow_mem_opcodeTable (i : Instr) : opcodeRow i ∈ opcodeTable := by
  cases i <;> simp [opcodeTable, opcodeRow]

theorem of_masked {i : Instr} (h : encode i &&& (opcodeRow i).mask = (opcodeRow i).value) : Statement i :=
  ⟨by simp [OpcodeRow.selects, h], opcodeRow_mem_opcodeTable i⟩

theorem cls (u : Nibble) : Statement (.cls u) := of_masked (formatXK_masked_byte 0 u 0xE0)
theorem ret (u : Nibble) : Statement (.ret u) := of_masked (formatXK_masked_byte 0 u 0xEE)
theorem jp (nnn : Addr) : Statement (.jp nnn) := of_masked (formatA_masked 0x1 _)
theorem call (nnn : Addr) : Statement (.call nnn) := of_masked (formatA_masked 0x2 _)
theorem seImm (x : RegNum) (kk : Byte) : Statement (.seImm x kk) := of_masked (formatXK_masked 0x3 _ _)
theorem sneImm (x : RegNum) (kk : Byte) : Statement (.sneImm x kk) := of_masked (formatXK_masked 0x4 _ _)
theorem seReg (x y : RegNum) (u : Nibble) : Statement (.seReg x y u) :=
  of_masked (formatXYN_masked 0x5 _ _ _)
theorem sneReg (x y : RegNum) (u : Nibble) : Statement (.sneReg x y u) :=
  of_masked (formatXYN_masked 0x9 _ _ _)
theorem ldImm (x : RegNum) (kk : Byte) : Statement (.ldImm x kk) := of_masked (formatXK_masked 0x6 _ _)
theorem addImm (x : RegNum) (kk : Byte) : Statement (.addImm x kk) := of_masked (formatXK_masked 0x7 _ _)
theorem ldReg (x y : RegNum) : Statement (.ldReg x y) := of_masked (formatXYN_masked_nibble 0x8 _ _ _)
theorem orReg (x y : RegNum) : Statement (.orReg x y) := of_masked (formatXYN_masked_nibble 0x8 _ _ _)
theorem andReg (x y : RegNum) : Statement (.andReg x y) := of_masked (formatXYN_masked_nibble 0x8 _ _ _)
theorem xorReg (x y : RegNum) : Statement (.xorReg x y) := of_masked (formatXYN_masked_nibble 0x8 _ _ _)
theorem addReg (x y : RegNum) : Statement (.addReg x y) := of_masked (formatXYN_masked_nibble 0x8 _ _ _)
theorem subReg (x y : RegNum) : Statement (.subReg x y) := of_masked (formatXYN_masked_nibble 0x8 _ _ _)
theorem shr (x y : RegNum) : Statement (.shr x y) := of_masked (formatXYN_masked_nibble 0x8 _ _ _)
theorem subnReg (x y : RegNum) : Statement (.subnReg x y) :=
  of_masked (formatXYN_masked_nibble 0x8 _ _ _)
theorem shl (x y : RegNum) : Statement (.shl x y) := of_masked (formatXYN_masked_nibble 0x8 _ _ _)
theorem ldI (nnn : Addr) : Statement (.ldI nnn) := of_masked (formatA_masked 0xA _)
theorem jpV0 (nnn : Addr) : Statement (.jpV0 nnn) := of_masked (formatA_masked 0xB _)
theorem rnd (x : RegNum) (kk : Byte) : Statement (.rnd x kk) := of_masked (formatXK_masked 0xC _ _)
theorem drw (x y : RegNum) (n : Nibble) : Statement (.drw x y n) := of_masked (formatXYN_masked 0xD _ _ _)
theorem skp (x : RegNum) : Statement (.skp x) := of_masked (formatXK_masked_byte 0xE _ _)
theorem sknp (x : RegNum) : Statement (.sknp x) := of_masked (formatXK_masked_byte 0xE _ _)
theorem ldVxDT (x : RegNum) : Statement (.ldVxDT x) := of_masked (formatXK_masked_byte 0xF _ _)
theorem ldVxK (x : RegNum) : Statement (.ldVxK x) := of_masked (formatXK_masked_byte 0xF _ _)
theorem ldDTVx (x : RegNum) : Statement (.ldDTVx x) := of_masked (formatXK_masked_byte 0xF _ _)
theorem ldSTVx (x : RegNum) : Statement (.ldSTVx x) := of_masked (formatXK_masked_byte 0xF _ _)
theorem addI (x : RegNum) : Statement (.addI x) := of_masked (formatXK_masked_byte 0xF _ _)
theorem ldF (x : RegNum) : Statement (.ldF x) := of_masked (formatXK_masked_byte 0xF _ _)
theorem ldB (x : RegNum) : Statement (.ldB x) := of_masked (formatXK_masked_byte 0xF _ _)
theorem stBlock (x : RegNum) : Statement (.stBlock x) := of_masked (formatXK_masked_byte 0xF _ _)
theorem ldBlock (x : RegNum) : Statement (.ldBlock x) := of_masked (formatXK_masked_byte 0xF _ _)

end RowOf

end Sys2Proof.Laws
end

