-- ==== Sys2Proof/Tests/Slice0.lean ====
section
/-! SUPPORT. Small tests. Expected results are the vectors of 95_test_vectors.md (named in the docstrings) or follow by
hand from a rule; decode tests are words written out from the bit patterns of 30_encoding.md R66. The theorems named
`witness_...` show states and operands that meet the hypotheses of the obligation they name. -/

namespace Sys2Proof.Tests

open Sys2Proof Sys2Proof.Machine

/-! ### Helpers -/

/-- The next state of an outcome. -/
def nextOf (o : Outcome) : Option State :=
  match o with
  | .next t => some t
  | .fault _ => none
  | .refused _ => none

/-- What the state after one cycle shows, when the word `w` lies at `pc`. -/
def after {α : Type} (w : Nat) (s : State) (f : State → α) : Option α := (nextOf (step (s.withFetchWord 16 w))).map f

/-- The reset state with some registers set. -/
def regs (l : List (RegNum × Byte)) : State := l.foldl (fun s p => s.setReg p.1 p.2) State.reset

/-- A state with bytes stored at an address. -/
def poke (s : State) (a : Nat) (bs : List Byte) : State := { s with mem := s.mem.writeBytes a bs }

/-- The fault latch and the `pc`, as numbers. -/
def latch (s : State) : Nat × Nat × Nat × Nat :=
  (s.faultCause.code.toNat, s.faultPc.toNat, s.faultInfo.toNat, s.pc.toNat)

/-- The registers `V[1]` and `V[15]`. -/
def v1vf (s : State) : Byte × Byte := (s.reg 1, s.reg 15)

/-- `V[1]`, `V[2]` and `V[15]` = 0x77, the start of the vectors A1 to A30. -/
def alu (a b : Byte) : State := regs [(1, a), (2, b), (15, 0x77)]

/-- A core halted by `PcOutOfRange`, so that `pc` is above the last fetch address as well. -/
def haltedState : State := { State.reset with pc := 0x10FE, faultCause := .pcOutOfRange, faultPc := 0x10FE, faultInfo := 0x10FE }

/-! ### Well-formedness: ill-formed terms are refused -/

theorem test_wf_good_record : (Fields.mk 0xD 0x1 0x2 0x5 0x25 0x125).wellFormed = true := by decide
theorem test_wf_refuses_kk : (Fields.mk 0xD 0x1 0x2 0x5 0x26 0x126).kkAgrees = false := by decide
theorem test_wf_refuses_nnn : (Fields.mk 0xD 0x1 0x2 0x5 0x25 0x225).nnnAgrees = false := by decide
theorem test_wf_refuses_record :
    (Fields.mk 0xD 0x1 0x2 0x5 0x26 0x126).wellFormed = false ∧ (Fields.mk 0xD 0x1 0x2 0x5 0x25 0x225).wellFormed = false := by
  decide
theorem test_canonical_refuses :
    Instr.canonical (.cls 0xA) = false ∧ Instr.canonical (.ret 1) = false ∧ Instr.canonical (.seReg 1 2 0xF) = false ∧
      Instr.canonical (.sneReg 1 2 8) = false := by decide
theorem test_canonical_accepts : Instr.canonical (.cls 0) = true ∧ Instr.canonical (.shr 1 2) = true := by decide

/-! ### Decoding: one word per instruction, bit by bit (30_encoding.md R61, R66) -/

theorem test_decode_cls : decodeWord 0b0000000011100000 = some (.cls 0) := by decide
theorem test_decode_ret : decodeWord 0b0000000011101110 = some (.ret 0) := by decide
theorem test_decode_jp : decodeWord 0b0001101010111100 = some (.jp 0xABC) := by decide
theorem test_decode_call : decodeWord 0b0010001000001010 = some (.call 0x20A) := by decide
theorem test_decode_seImm : decodeWord 0b0011101001000010 = some (.seImm 10 0x42) := by decide
theorem test_decode_sneImm : decodeWord 0b0100001100010001 = some (.sneImm 3 0x11) := by decide
theorem test_decode_seReg : decodeWord 0b0101001000110000 = some (.seReg 2 3 0) := by decide
theorem test_decode_sneReg : decodeWord 0b1001001000110000 = some (.sneReg 2 3 0) := by decide
theorem test_decode_ldImm : decodeWord 0b0110101000101111 = some (.ldImm 10 0x2F) := by decide
theorem test_decode_addImm : decodeWord 0b0111000111111111 = some (.addImm 1 0xFF) := by decide
theorem test_decode_ldReg : decodeWord 0b1000000100100000 = some (.ldReg 1 2) := by decide
theorem test_decode_orReg : decodeWord 0b1000000100100001 = some (.orReg 1 2) := by decide
theorem test_decode_andReg : decodeWord 0b1000000100100010 = some (.andReg 1 2) := by decide
theorem test_decode_xorReg : decodeWord 0b1000000100100011 = some (.xorReg 1 2) := by decide
theorem test_decode_addReg : decodeWord 0b1000101010110100 = some (.addReg 10 11) := by decide
theorem test_decode_subReg : decodeWord 0b1000000100100101 = some (.subReg 1 2) := by decide
theorem test_decode_shr : decodeWord 0b1000000100100110 = some (.shr 1 2) := by decide
theorem test_decode_subnReg : decodeWord 0b1000000100100111 = some (.subnReg 1 2) := by decide
theorem test_decode_shl : decodeWord 0b1000000100101110 = some (.shl 1 2) := by decide
theorem test_decode_ldI : decodeWord 0b1010001100000000 = some (.ldI 0x300) := by decide
theorem test_decode_jpV0 : decodeWord 0b1011000100100011 = some (.jpV0 0x123) := by decide
theorem test_decode_rnd : decodeWord 0b1100001100001111 = some (.rnd 3 0x0F) := by decide
theorem test_decode_drw : decodeWord 0b1101000100100101 = some (.drw 1 2 5) := by decide
theorem test_decode_skp : decodeWord 0b1110000110011110 = some (.skp 1) := by decide
theorem test_decode_sknp : decodeWord 0b1110010010100001 = some (.sknp 4) := by decide
theorem test_decode_ldVxDT : decodeWord 0b1111001000000111 = some (.ldVxDT 2) := by decide
theorem test_decode_ldVxK : decodeWord 0b1111000100001010 = some (.ldVxK 1) := by decide
theorem test_decode_ldDTVx : decodeWord 0b1111000000010101 = some (.ldDTVx 0) := by decide
theorem test_decode_ldSTVx : decodeWord 0b1111010100011000 = some (.ldSTVx 5) := by decide
theorem test_decode_addI : decodeWord 0b1111001000011110 = some (.addI 2) := by decide
theorem test_decode_ldF : decodeWord 0b1111000000101001 = some (.ldF 0) := by decide
theorem test_decode_ldB : decodeWord 0b1111010100110011 = some (.ldB 5) := by decide
theorem test_decode_stBlock : decodeWord 0b1111000101010101 = some (.stBlock 1) := by decide
theorem test_decode_ldBlock : decodeWord 0b1111101001100101 = some (.ldBlock 10) := by decide

/-- Words that select no handler (vectors F1 to F5, and neighbours of the sub-keys). -/
theorem test_decode_unrecognized :
    decodeWord 0x0000 = none ∧ decodeWord 0x0234 = none ∧ decodeWord 0x8128 = none ∧ decodeWord 0x812F = none ∧
      decodeWord 0x812D = none ∧ decodeWord 0xE19F = none ∧ decodeWord 0xE1A0 = none ∧ decodeWord 0xF175 = none ∧
      decodeWord 0xF166 = none ∧ decodeWord 0x00E1 = none ∧ decodeWord 0x00EF = none := by decide

/-- Ignored bits do not matter to the selection (R69, vectors C13, G0b). -/
theorem test_decode_ignored_bits :
    decodeWord 0x0AE0 = some (.cls 0xA) ∧ decodeWord 0x0FEE = some (.ret 0xF) ∧ decodeWord 0x512F = some (.seReg 1 2 0xF) := by
  decide

/-- Bytes: big-endian (R40), and too few of them. -/
theorem test_decode_bytes :
    decodeBytes [0xA3, 0x00, 0x12] = .instr (.ldI 0x300) [0x12] ∧ decodeBytes [0x81, 0x28] = .unrecognizedOpcode 0x8128 ∧
      decodeBytes [0xA3] = .truncated ∧ decodeBytes [] = .truncated := by decide

/-- A short opcode number: the bits above `nbits` are 0. -/
theorem test_decode_table_word :
    decodeTableWord 16 0xD125 = some (.drw 1 2 5) ∧ decodeTableWord 8 0x12E0 = some (.cls 0) := by decide

/-! ### Control transfer (vectors C1 to C20) -/

theorem test_jp_C1 : after 0x1204 { State.reset with pc := 0x20A } (·.pc) = some 0x0204 := by decide
theorem test_jp_C2 : after 0x120A { State.reset with pc := 0x20A, dt := 2 } (fun t => (t.pc, t.dt)) = some (0x020A, 1) := by
  decide
theorem test_call_C3 : after 0x220A { State.reset with pc := 0x204 } (fun t => (t.pc, t.sp, t.stack[0])) =
    some (0x020A, 1, 0x0206) := by decide
theorem test_call_C6 : after 0x2200 { State.reset with sp := 16 } (fun t => (latch t, t.sp)) =
    some ((2, 0x200, 0x2200, 0x200), 16) := by decide
theorem test_ret_R81 : after 0x00EE { State.reset with pc := 0x20C, sp := 1, stack := State.reset.stack.set 0 0x0206 }
    (fun t => (t.pc, t.sp, t.stack[0])) = some (0x0206, 0, 0x0206) := by decide
theorem test_ret_C5 : after 0x00EE State.reset (fun t => (latch t, t.sp)) = some ((3, 0x200, 0x00EE, 0x200), 0) := by decide
theorem test_seImm_C7 : after 0x3100 { regs [(1, 0)] with pc := 0x208 } (·.pc) = some 0x020C := by decide
theorem test_seImm_C8 : after 0x3100 { regs [(1, 4)] with pc := 0x208 } (·.pc) = some 0x020A := by decide
theorem test_sneImm_C9 : after 0x4311 { regs [(3, 0x10)] with pc := 0x300 } (·.pc) = some 0x0304 := by decide
theorem test_sneImm_C10 : after 0x4310 { regs [(3, 0x10)] with pc := 0x300 } (·.pc) = some 0x0302 := by decide
theorem test_seReg_C11 : after 0x5230 { regs [(2, 7), (3, 7)] with pc := 0x210 } (·.pc) = some 0x0214 := by decide
theorem test_seReg_C13 : after 0x512F (regs [(1, 0), (2, 0)]) (·.pc) = some 0x0204 := by decide
theorem test_sneReg_C14 : after 0x9230 { regs [(2, 7), (3, 8)] with pc := 0x210 } (·.pc) = some 0x0214 := by decide
theorem test_sneReg_C15 : after 0x9220 { regs [(2, 7)] with pc := 0x210 } (·.pc) = some 0x0212 := by decide
theorem test_jpV0_C16 : after 0xB300 (regs [(0, 4)]) (·.pc) = some 0x0304 := by decide
theorem test_jpV0_C17 : after 0xBFFF (regs [(0, 0xFF)]) latch = some (0, 0, 0, 0x10FE) := by decide
theorem test_skip_past_the_end_C18 : after 0x3000 { State.reset with pc := 0xFFC } latch = some (0, 0, 0, 0x1000) := by decide
theorem test_fetch_past_the_end_C18 : (nextOf (step { State.reset with pc := 0x1000 })).map latch =
    some (4, 0x1000, 0x1000, 0x1000) := by decide
theorem test_fetch_F6 : (nextOf (step { State.reset with pc := 0x0FFF })).map latch = some (4, 0x0FFF, 0x0FFF, 0x0FFF) := by
  decide
theorem test_fetch_odd_C20 : (nextOf (step { poke State.reset 0x300 [0x00, 0x60, 0x05, 0x00] with pc := 0x301 })).map
    (fun t => (t.reg 0, t.pc)) = some (5, 0x0303) := by decide
theorem test_unrecognized_F2 : after 0x0234 State.reset latch = some (1, 0x200, 0x0234, 0x200) := by decide
theorem test_halted_F7 : nextOf (step { haltedState with dt := 5 }) = some { haltedState with dt := 5 } := by decide

/-! ### Arithmetic and logic (vectors A1 to A60) -/

theorem test_ldReg_A24 : after 0x8120 (alu 0xF0 0x3C) v1vf = some (0x3C, 0x77) := by decide
theorem test_orReg_A25 : after 0x8121 (alu 0xF0 0x3C) v1vf = some (0xFC, 0x77) := by decide
theorem test_andReg_A26 : after 0x8122 (alu 0xF0 0x3C) v1vf = some (0x30, 0x77) := by decide
theorem test_xorReg_A27 : after 0x8123 (alu 0xF0 0x3C) v1vf = some (0xCC, 0x77) := by decide
theorem test_addReg_A2_A3 : after 0x8124 (alu 0xFF 0x01) v1vf = some (0x00, 1) ∧
    after 0x8124 (alu 0x80 0x7F) v1vf = some (0xFF, 0) := by decide
theorem test_addReg_A40_A42_A44 : after 0x8F24 (regs [(15, 0xF0), (2, 0x20)]) (·.reg 15) = some 0x21 ∧
    after 0x8FF4 (regs [(15, 0x90)]) (·.reg 15) = some 0x02 ∧
    after 0x81F4 (regs [(1, 0xFF), (15, 1)]) v1vf = some (0x00, 1) := by decide
theorem test_subReg_A7_A9 : after 0x8125 (alu 0x10 0x20) v1vf = some (0xF0, 0) ∧
    after 0x8125 (alu 0x33 0x33) v1vf = some (0x00, 1) := by decide
theorem test_subReg_A47_A49_A51 : after 0x8F25 (regs [(15, 0x30), (2, 0x10)]) (·.reg 15) = some 0xF1 ∧
    after 0x81F5 (regs [(1, 0x30), (15, 0x10)]) v1vf = some (0x2F, 1) ∧
    after 0x8FF5 (regs [(15, 0x42)]) (·.reg 15) = some 0 := by decide
theorem test_shr_A12_A14 : after 0x8126 (alu 0x05 0xAA) v1vf = some (0x02, 1) ∧
    after 0x8126 (alu 0xFF 0xAA) v1vf = some (0x7F, 1) := by decide
theorem test_shr_A52 : after 0x8F06 (regs [(15, 3)]) (·.reg 15) = some 0 := by decide
theorem test_subnReg_A16_A17 : after 0x8127 (alu 0x10 0x20) v1vf = some (0x10, 1) ∧
    after 0x8127 (alu 0x20 0x10) v1vf = some (0xF0, 0) := by decide
theorem test_subnReg_A54_A56_A58 : after 0x8F27 (regs [(15, 0x10), (2, 0x30)]) (·.reg 15) = some 0x2F ∧
    after 0x81F7 (regs [(1, 0x10), (15, 0x30)]) v1vf = some (0xF1, 1) ∧
    after 0x8FF7 (regs [(15, 0x42)]) (·.reg 15) = some 0 := by decide
theorem test_shl_A20_A21 : after 0x812E (alu 0x81 0xAA) v1vf = some (0x02, 1) ∧
    after 0x812E (alu 0x40 0xAA) v1vf = some (0x80, 0) := by decide
theorem test_shl_A59 : after 0x8F0E (regs [(15, 0x80)]) (·.reg 15) = some 2 := by decide
theorem test_ldImm_A28 : after 0x6A42 State.reset (·.reg 10) = some 0x42 := by decide
theorem test_addImm_A29 : after 0x7105 (alu 0xFE 0) v1vf = some (0x03, 0x77) := by decide
theorem test_addImm_A30 : after 0x7F01 (regs [(15, 0xFF)]) (·.reg 15) = some 0 := by decide

/-- R113: the drawn byte is masked; two draws take two free bytes. -/
theorem test_rnd_R113 : after 0xC30F { State.reset with draws := 4 } (fun t => (t.reg 3, t.draws)) =
    some (Config.freeByte 4 &&& 0x0F, 5) := rfl
theorem test_rnd_A33 : after 0xC300 (regs [(3, 0x55)]) (·.reg 3) = some 0 :=
  congrArg some (BitVec.and_zero (x := Config.freeByte 0))

/-! ### Display (vectors G0 to G14); a row is written with column 0 as its lowest bit -/

theorem test_cls_G0b : after 0x0AE0 { State.reset with fb := clearScreen.set 0 0x20 } (fun t => (t.fb, t.dirty)) =
    some (clearScreen, true) := by decide
theorem test_drw_G4_wraps_flat : after 0xD011 { poke (regs [(0, 60), (1, 5)]) 0x300 [0xFF] with idx := 0x300 }
    (fun t => (t.fb, t.reg 15, t.dirty)) =
    some ((clearScreen.set 5 0xF000000000000000).set 6 0xF, 0, true) := by decide
theorem test_drw_G12_collision_with_flag_as_x :
    after 0xDF11 { poke (regs [(15, 5), (1, 2)]) 0x300 [0x80] with idx := 0x300, fb := clearScreen.set 2 0x20 }
    (fun t => (t.fb, t.reg 15)) = some (clearScreen, 1) := by decide
theorem test_drw_G10_faults : after 0xD002 { regs [(15, 9)] with idx := 0xFFF } (fun t => (latch t, t.reg 15, t.dirty)) =
    some ((5, 0x200, 0x1000, 0x200), 9, false) := by decide
theorem test_drw_G8_no_rows : after 0xD000 { regs [(15, 9)] with idx := 0xFFF }
    (fun t => (latch t, t.reg 15, t.dirty, t.fb)) = some ((0, 0, 0, 0x202), 0, true, clearScreen) := by decide

/-- G5 and G6 under both values of DRAW_WRAP. -/
theorem test_target_cell :
    targetCell .flat 200 40 0 0 = 712 ∧ targetCell .independent 200 40 0 0 = 8 + 8 * 64 ∧
      targetCell .flat 255 255 0 7 = 198 ∧ targetCell .independent 255 255 0 7 = 6 + 31 * 64 := by decide

/-! ### Keypad and timers (vectors K1 to K16) -/

theorem test_skp_K1 : after 0xE49E { (regs [(4, 0x0A)]).pressKey 10 with pc := 0x220 } (·.pc) = some 0x0224 := by decide
theorem test_skp_K5 : after 0xE49E { regs [(4, 0x10)] with pc := 0x220 } latch = some (6, 0x220, 0x10, 0x220) := by decide
theorem test_sknp_K4 : after 0xE4A1 { regs [(4, 0x0A)] with pc := 0x220 } (·.pc) = some 0x0224 := by decide
theorem test_sknp_K6 : after 0xE4A1 { regs [(4, 0xFF)] with pc := 0x220 } latch = some (6, 0x220, 0xFF, 0x220) := by decide
theorem test_ldVxK_K7 : after 0xF10A { regs [(1, 0x33)] with pc := 0x204, dt := 2 } (fun t => (t.pc, t.reg 1, t.dt)) =
    some (0x0204, 0x33, 1) := by decide
theorem test_ldVxK_K8 : after 0xF10A { (State.reset.pressKey 9).pressKey 7 with pc := 0x204 } (fun t => (t.pc, t.reg 1)) =
    some (0x0206, 7) := by decide
theorem test_ldVxDT_K10 : after 0xF207 { State.reset with dt := 5 } (fun t => (t.reg 2, t.dt)) = some (5, 4) := by decide
theorem test_ldDTVx_K11 : after 0xF015 (regs [(0, 3)]) (fun t => (t.dt, t.st)) = some (2, 0) := by decide
theorem test_ldDTVx_K13 : after 0xF015 { State.reset with dt := 9 } (·.dt) = some 0 := by decide
theorem test_ldSTVx_K14 : after 0xF518 (regs [(5, 0x10)]) (fun t => (t.st, t.dt)) = some (0x0F, 0) := by decide
theorem test_timers_K15_K16 : after 0x6000 { State.reset with dt := 0xFF, st := 0xFF } (fun t => (t.dt, t.st)) = some (0xFE, 0xFE) ∧
    after 0x6000 { State.reset with dt := 1, st := 0 } (fun t => (t.dt, t.st)) = some (0, 0) := by decide

/-! ### Index register and memory (vectors M1 to M19) -/

theorem test_ldI_M1 : after 0xA300 State.reset (·.idx) = some 0x300 := by decide
theorem test_addI_M2c : after 0xF31E { regs [(3, 0xFF), (15, 0x77)] with idx := 0xF80 } (fun t => (t.idx, t.reg 15)) =
    some (0x07F, 0x77) := by decide
theorem test_ldF_M4 : after 0xF429 (regs [(4, 0x0F)]) (·.idx) = some 0x04B := by decide
theorem test_ldF_M5 : after 0xF429 (regs [(4, 0xFF)]) (·.idx) = some 0x4FB := by decide
theorem test_ldB_M6 : after 0xF533 { regs [(5, 142)] with idx := 0x400 } (fun t => (t.mem.readBytes 0x400 3, t.idx)) =
    some ([1, 4, 2], 0x400) := by decide
theorem test_ldB_M12_M13 : after 0xF533 { regs [(5, 7)] with idx := 0xFFD } (fun t => (latch t, t.mem.readBytes 0xFFD 3)) =
      some ((0, 0, 0, 0x202), [0, 0, 7]) ∧
    after 0xF533 { regs [(5, 7)] with idx := 0xFFE } (fun t => (latch t, t.mem.readBytes 0xFFE 2)) =
      some ((5, 0x200, 0x1000, 0x200), [0, 0]) := by decide
theorem test_stBlock_M14 : after 0xF155 { regs [(0, 0x62), (1, 0x07), (2, 9)] with idx := 0x208 }
    (fun t => (t.mem.readBytes 0x208 3, t.idx)) = some ([0x62, 0x07, 0], 0x20A) := by decide
theorem test_stBlock_M17_M18 : after 0xFF55 { regs [(0, 0x10), (15, 0x1F)] with idx := 0xFF0 }
      (fun t => (t.mem.read 0xFF0, t.mem.read 0xFFF, t.idx)) = some (0x10, 0x1F, 0) ∧
    after 0xFF55 { regs [(0, 0x10)] with idx := 0xFF1 } (fun t => (latch t, t.mem.read 0xFF1, t.idx)) =
      some ((5, 0x200, 0x1000, 0x200), 0, 0xFF1) := by decide
theorem test_ldBlock_M19 : after 0xF265 { poke (regs [(3, 0x33)]) 0x400 [0xAA, 0xBB, 0xCC, 0xDD] with idx := 0x400 }
    (fun t => ([t.reg 0, t.reg 1, t.reg 2, t.reg 3], t.idx)) = some ([0xAA, 0xBB, 0xCC, 0x33], 0x403) := by decide

/-- Glyph bytes of 10_state.md R31: digit 0 at 0x000, digit 15 at 0x04B, and zero after the table. -/
theorem test_glyphs : State.reset.mem.readBytes 0 5 = [0xF0, 0x90, 0x90, 0x90, 0xF0] ∧
    State.reset.mem.readBytes 0x4B 6 = [0xF0, 0x80, 0xF0, 0x80, 0x80, 0] := by decide

/-- Writing the reset byte removes the cell: the memory is canonical. -/
theorem test_memory_canonical : (State.reset.mem.writeBytes 0 [0xF1, 0x90]).length = 1 ∧
    (State.reset.mem.writeBytes 0 [0xF1]).writeBytes 0 [0xF0] = [] ∧ State.reset.mem.write 0x1000 5 = [] := by decide

/-! ### Host operations -/

theorem test_boot_stores_image : (boot [0x60, 0x00]).map (fun t => (t.mem.readBytes 0x200 3, t.pc)) =
    some ([0x60, 0, 0], 0x200) := by decide
theorem test_hostInit_leaves_a_fault : haltedState.hostInit = State.reset := by decide
theorem test_press_out_of_range : State.reset.pressKey 16 = State.reset ∧ State.reset.releaseKey (-1) = State.reset := by decide

/-! ### Witnesses: states and operands that meet the hypotheses of the obligations -/

theorem witness_EncodeOfDecode : decodeWord 0x8AB4 = some (.addReg 10 11) ∧ decodeWord 0x0FEE = some (.ret 0xF) := by decide
theorem witness_DecodingFollowsOpcodeTable : decodeWord 0xF065 = some (.ldBlock 0) ∧ (⟨0xF065, 0xF0FF⟩ : OpcodeRow) ∈ opcodeTable := by
  decide
theorem witness_IgnoredBitsHaveNoEffect : ({ State.reset with sp := 1 } : State).sp ≠ 0 := by decide

/-- A word at the last address it can be fetched from, and at an odd address. -/
def runsAt (pc : Word) (w : Word) : State := { poke State.reset pc.toNat (bytesOfWord w) with pc := pc }

theorem witness_StepRunsDecodedInstruction :
    ((runsAt 0xFFE 0x6001).faultCause = .none ∧ (runsAt 0xFFE 0x6001).pc.toNat ≤ 0xFFE ∧
      decodeBytes [(runsAt 0xFFE 0x6001).mem.read 0xFFE, (runsAt 0xFFE 0x6001).mem.read 0xFFF] = .instr (.ldImm 0 1) []) ∧
    (runsAt 0x301 0x6005).pc.toNat ≤ 0xFFE ∧
      decodeBytes [(runsAt 0x301 0x6005).mem.read 0x301, (runsAt 0x301 0x6005).mem.read 0x302] = .instr (.ldImm 0 5) [] := by
  decide
theorem witness_PlacedWordRunsNext : State.reset.mem.wf = true ∧ haltedState.mem.wf = true ∧
    (poke State.reset 0x200 [1, 2]).mem.wf = true := by decide

/-- One running state for each fault, and one without a fault. -/
theorem witness_CycleFaultsExactlyWhen :
    cycleFault State.reset = some (.unrecognizedOpcode, 0x0000) ∧
    cycleFault { State.reset with pc := 0xFFF } = some (.pcOutOfRange, 0xFFF) ∧
    cycleFault { runsAt 0x200 0x2ABC with sp := 16 } = some (.stackOverflow, 0x2ABC) ∧
    cycleFault (runsAt 0x200 0x05EE) = some (.stackUnderflow, 0x05EE) ∧
    cycleFault { runsAt 0x200 0xFF65 with idx := 0xFFF } = some (.memoryOutOfRange, 0x100E) ∧
    cycleFault ((runsAt 0x200 0xE19E).setReg 1 16) = some (.keyIndexOutOfRange, 16) ∧
    cycleFault { runsAt 0x200 0xD121 with idx := 0xFFF } = none ∧ cycleFault { runsAt 0x200 0xD120 with idx := 0xFFF } = none := by
  decide
theorem witness_FaultsArePrecise : State.reset.faultCause = .none ∧
    (nextOf (step State.reset)).map (fun t => decide (t.faultCause ≠ .none)) = some true := by decide
theorem witness_HaltedCoreNeverChanges : haltedState.faultCause ≠ .none := by decide
theorem witness_TimersCountInEveryCompletedCycle :
    Fetches (runsAt 0x200 0xF015) (.ldDTVx 0) ∧ Fetches (runsAt 0x200 0xF518) (.ldSTVx 5) ∧
      Fetches (runsAt 0xFFE 0x6001) (.ldImm 0 1) ∧
      (nextOf (step (runsAt 0x200 0xF015))).map (·.faultCause) = some .none ∧
      (nextOf (step (runsAt 0x200 0xF518))).map (·.faultCause) = some .none ∧
      (nextOf (step (runsAt 0xFFE 0x6001))).map (·.faultCause) = some .none := by
  exact ⟨⟨by decide, by decide, by decide⟩, ⟨by decide, by decide, by decide⟩, ⟨by decide, by decide, by decide⟩,
    by decide, by decide, by decide⟩

/-- For the frames over all instructions: a draw, a block store and a Call give next states, with registers, addresses and
slots outside what they write. -/
theorem witness_InstructionsWriteOnlyTheirParts : ∃ t, exec (.drw 1 2 5) State.reset = .next t := ⟨_, rfl⟩
theorem witness_InstructionsWriteOnlyTheirRegisters :
    (∃ t, exec (.addReg 1 2) State.reset = .next t) ∧ mayWriteReg (.addReg 1 2) 3 = false ∧
      (∃ t, exec (.ldBlock 14) State.reset = .next t) ∧ mayWriteReg (.ldBlock 14) 15 = false :=
  ⟨⟨_, rfl⟩, by decide, ⟨_, rfl⟩, by decide⟩
theorem witness_InstructionsStoreOnlyTheirBytes :
    (∃ t, exec (.stBlock 15) { State.reset with idx := 0xFF0 } = .next t) ∧ 0xFEF < (0xFF0 : Addr).toNat ∧
      (0xFF0 : Addr).toNat + storedCount (.stBlock 15) ≤ 0x1000 ∧
      (∃ t, exec (.ldB 5) { State.reset with idx := 0x400 } = .next t) ∧ (0x400 : Addr).toNat + storedCount (.ldB 5) ≤ 0x403 :=
  ⟨⟨_, rfl⟩, by decide, by decide, ⟨_, rfl⟩, by decide⟩
theorem witness_StackSlotsKeptButTheCalls :
    (∃ t, exec (.call 0x300) State.reset = .next t) ∧ (1 : Fin 16).val ≠ State.reset.sp.val ∧
      (∃ t, exec (.ret 0) { State.reset with sp := 1 } = .next t) ∧ ∀ nnn, Instr.ret 0 ≠ .call nnn :=
  ⟨⟨_, rfl⟩, by decide, ⟨_, rfl⟩, by intro nnn h; cases h⟩
theorem witness_FlagIsZeroOrOne :
    (14 : RegNum) ≠ 15 ∧ (∃ t, exec (.addReg 14 15) State.reset = .next t) ∧
      SpriteInMemory { State.reset with idx := 0xFFF } (1 : Nibble).toNat ∧
      SpriteInMemory { State.reset with idx := 0xFFF } (0 : Nibble).toNat ∧
      ∃ t, exec (.drw 15 1 1) { State.reset with idx := 0xFFF } = .next t :=
  ⟨by decide, ⟨_, rfl⟩, .inr (by decide), .inl rfl, ⟨_, rfl⟩⟩
theorem witness_CallPushesOrOverflows : ({ State.reset with sp := 15 } : State).sp.val < 16 ∧
    ({ State.reset with sp := 16 } : State).sp.val = 16 := by decide
theorem witness_ReturnPopsOrUnderflows : (15 : Fin 16).val + 1 = ({ State.reset with sp := 16 } : State).sp.val ∧
    (0 : Fin 16).val + 1 = ({ State.reset with sp := 1 } : State).sp.val ∧ State.reset.sp.val = 0 := by decide
theorem witness_CallThenReturnComesBack :
    ({ State.reset with sp := 15 } : State).sp.val < 16 ∧ ∃ t, exec (.call 0xFFF) { State.reset with sp := 15 } = .next t :=
  ⟨by decide, ⟨_, rfl⟩⟩
theorem witness_ArithmeticOnOrdinaryRegisters :
    (14 : RegNum) ≠ 15 ∧ (0 : RegNum) ≠ 15 ∧ (∃ t, exec (.addReg 14 0) (alu 1 2) = .next t) ∧
      (∃ t, exec (.subReg 14 0) (alu 1 2) = .next t) ∧ (∃ t, exec (.subnReg 14 0) (alu 1 2) = .next t) ∧
      (∃ t, exec (.shr 14 0) (alu 1 2) = .next t) ∧ ∃ t, exec (.shl 14 0) (alu 1 2) = .next t :=
  ⟨by decide, by decide, ⟨_, rfl⟩, ⟨_, rfl⟩, ⟨_, rfl⟩, ⟨_, rfl⟩, ⟨_, rfl⟩⟩
theorem witness_FlagRegisterAsOperand :
    (14 : RegNum) ≠ 15 ∧ (0 : RegNum) ≠ 15 ∧ (∃ t, exec (.addReg 15 0) (alu 1 2) = .next t) ∧
      (∃ t, exec (.subReg 14 15) (alu 1 2) = .next t) ∧ (∃ t, exec (.subnReg 15 15) (alu 1 2) = .next t) ∧
      (∃ t, exec (.shr 15 0) (alu 1 2) = .next t) ∧ ∃ t, exec (.shl 15 0) (alu 1 2) = .next t :=
  ⟨by decide, by decide, ⟨_, rfl⟩, ⟨_, rfl⟩, ⟨_, rfl⟩, ⟨_, rfl⟩, ⟨_, rfl⟩⟩

/-- A sprite row of one set pixel at 0xFFF, the last byte of memory, drawn at (0, 0). -/
def dotAtEnd : State := { poke State.reset 0xFFF [0x80] with idx := 0xFFF }

theorem dotAtEnd_plots : Plots dotAtEnd 0 1 1 0 := ⟨0, 0, ⟨by decide, by decide, by decide⟩, by decide⟩

/-- A sprite in memory up to its last byte, one that plots a cell that is unset, and one that plots a set cell. -/
theorem witness_DrawSpriteFlipsItsTargets :
    SpriteInMemory dotAtEnd (1 : Nibble).toNat ∧ Plots dotAtEnd 0 1 (1 : Nibble).toNat 0 ∧
      ¬Plots dotAtEnd 0 1 (0 : Nibble).toNat 0 ∧ cellAt dotAtEnd.fb 0 = false ∧
      Plots { dotAtEnd with fb := clearScreen.set 0 1 } 0 1 (1 : Nibble).toNat 0 ∧ cellAt (clearScreen.set 0 1) 0 = true :=
  ⟨.inr (by decide), dotAtEnd_plots, fun ⟨_, _, h, _⟩ => Nat.not_lt_zero _ h.1, by decide,
    ⟨0, 0, ⟨by decide, by decide, by decide⟩, by decide⟩, by decide⟩
theorem witness_DrawTwiceRestoresTheScreen :
    (0 : RegNum) ≠ 15 ∧ (1 : RegNum) ≠ 15 ∧ SpriteInMemory dotAtEnd (1 : Nibble).toNat ∧
      ∃ t u, exec (.drw 0 1 1) dotAtEnd = .next t ∧ exec (.drw 0 1 1) t = .next u :=
  ⟨by decide, by decide, .inr (by decide), _, _, rfl, rfl⟩
theorem witness_KeySkips : ((regs [(4, 0)]).reg 4).toNat = (0 : KeyNum).val ∧ ((regs [(4, 15)]).reg 4).toNat = (15 : KeyNum).val ∧
    ((regs [(4, 16)]).reg 4).toNat > 15 ∧ ((regs [(4, 255)]).reg 4).toNat > 15 := by decide
theorem witness_KeyWaitStoresLowestKeyOrReplays :
    ((State.reset.pressKey 9).pressKey 7).keyDown 7 = true ∧
      (∀ j, j < 7 → ((State.reset.pressKey 9).pressKey 7).keyDown j = false) ∧
      (State.reset.pressKey 15).keyDown 15 = true ∧ (∀ j, j < 15 → (State.reset.pressKey 15).keyDown j = false) ∧
      ∀ k, State.reset.keyDown k = false := by decide
theorem witness_KeyWaitMakesNoProgressWithoutKey : AwaitingKey 1 (runsAt 0x204 0xF10A) :=
  ⟨⟨by decide, by decide, by decide⟩, by decide⟩
theorem witness_StoreBcdWritesThreeDigits :
    State.reset.mem.wf = true ∧ (0xFFD : Addr).toNat + 2 ≤ 0xFFF ∧ (0xFFE : Addr).toNat + 2 > 0xFFF := by decide
theorem witness_StoreBlockWritesRegisters :
    State.reset.mem.wf = true ∧ (0xFF0 : Addr).toNat + (15 : RegNum).val ≤ 0xFFF ∧
      (0xFF1 : Addr).toNat + (15 : RegNum).val > 0xFFF ∧ (0xFFF : Addr).toNat + (0 : RegNum).val ≤ 0xFFF := by decide
theorem witness_LoadBlockReadsRegisters : (0xFF0 : Addr).toNat + (15 : RegNum).val ≤ 0xFFF ∧
    (0xFFF : Addr).toNat + (1 : RegNum).val > 0xFFF := by decide
theorem witness_BlockStoreThenLoadRestores :
    State.reset.mem.wf = true ∧ ({ State.reset with idx := 0xFF0 } : State).idx.toNat + (15 : RegNum).val ≤ 0xFFF ∧
      ∃ t u, exec (.stBlock 15) { State.reset with idx := 0xFF0 } = .next t ∧
        exec (.ldBlock 15) { State.reset with mem := t.mem, idx := 0xFF0 } = .next u :=
  ⟨by decide, by decide, _, _, rfl, rfl⟩

/-- Program P6: `F155` at 0x206 stores over the word at 0x208. -/
theorem witness_StoreIsSeenByNextFetch :
    State.reset.mem.wf = true ∧ (0x208 : Addr).toNat + (1 : RegNum).val ≤ 0xFFF ∧
      (∃ t, exec (.stBlock 1) { regs [(0, 0x62), (1, 0x07)] with pc := 0x206, idx := 0x208 } = .next t ∧
        (0x208 : Addr).toNat + (0 : RegNum).val = t.pc.toNat) ∧ (1 : RegNum).val = (0 : RegNum).val + 1 ∧ (1 : RegNum) ≤ 1 :=
  ⟨by decide, by decide, ⟨_, rfl, by decide⟩, by decide, by decide⟩

theorem reset_inv : State.reset.Inv :=
  ⟨by decide, by decide, by unfold StackBounded; decide, ⟨rfl, rfl⟩⟩

/-- A state of the invariant that is not the reset state: one return address is live, memory is written, the next cycle
completes. -/
def busy : State := { runsAt 0x300 0x00EE with sp := 1, stack := State.reset.stack.set 0 0x0206 }

theorem witness_StepKeepsInvariant : busy.Inv ∧ ∃ t, step busy = .next t :=
  ⟨⟨by decide, by decide, by unfold StackBounded; decide, ⟨rfl, rfl⟩⟩, ⟨_, rfl⟩⟩
theorem witness_StepKeepsMemoryCanonical : busy.mem.wf = true ∧ ∃ t, step busy = .next t := ⟨by decide, _, rfl⟩
theorem witness_HostOperationsKeepInvariant : busy.Inv ∧ State.reset.Inv := ⟨witness_StepKeepsInvariant.1, reset_inv⟩
theorem witness_ExecutionsKeepInvariant : haltedState.Inv :=
  ⟨by decide, by decide, by unfold StackBounded; decide, ⟨rfl, rfl, by decide⟩⟩
theorem witness_DeadStackSlotsAreNotObserved :
    SameButDeadSlots busy { busy with stack := busy.stack.set 1 0xBEEF } ∧ busy ≠ { busy with stack := busy.stack.set 1 0xBEEF } ∧
      ∃ t, step busy = .next t :=
  ⟨⟨rfl, by decide⟩, by decide, ⟨_, rfl⟩⟩
theorem witness_DirtyAndSoundTimerAreNotRead : ∃ t, step busy = .next t := ⟨_, rfl⟩
theorem witness_JumpToSelfChangesOnlyTimers : Stopped (runsAt 0x20A 0x120A) ∧ 255 ≤ 255 :=
  ⟨⟨0x20A, ⟨by decide, by decide, by decide⟩, by decide⟩, le_refl _⟩
theorem witness_LoadProgramStoresOrRejects :
    State.reset.mem.wf = true ∧ (List.replicate 3584 (0x12 : Byte)).length ≤ 3584 ∧
      (List.replicate 3585 (0x12 : Byte)).length > 3584 ∧ ([] : List Byte).length ≤ 3584 :=
  ⟨by decide, by rw [List.length_replicate], by rw [List.length_replicate]; decide, by decide⟩
theorem witness_HostKeysSetOneLevel : (15 : Int) = (((15 : KeyNum).val : Nat) : Int) ∧ (0 : Int) = (((0 : KeyNum).val : Nat) : Int) ∧
    (15 : Int) < 16 ∧ (-1 : Int) < 0 := by decide

end Sys2Proof.Tests
end

section
/-! PROOFS. The order of the bytes of a fetched word (20_memory.md R40). -/

namespace Sys2Proof.Machine

open Sys2Proof

/-- The high byte counts 256 times: the bits of the two bytes do not overlap, so joining them adds. -/
theorem toNat_wordOfBytes (hi lo : Byte) : (wordOfBytes hi lo).toNat = hi.toNat * 256 + lo.toNat := by
  calc (wordOfBytes hi lo).toNat
      = hi.toNat <<< 8 ||| lo.toNat := BitVec.toNat_append hi lo
    _ = hi.toNat <<< 8 + lo.toNat := (Nat.shiftLeft_add_eq_or_of_lt lo.isLt hi.toNat).symm
    _ = hi.toNat * 256 + lo.toNat := by rw [Nat.shiftLeft_eq]

/-- A word in memory has its high byte at the lower address (20_memory.md R40). -/
theorem Memory.toNat_readWord (m : Memory) (a : Nat) :
    (m.readWord a).toNat = (m.read a).toNat * 256 + (m.read (a + 1)).toNat :=
  toNat_wordOfBytes (m.read a) (m.read (a + 1))

/-- Settles O8: the fetch reads the word at `pc`, and every word in memory is big-endian. -/
theorem fetchIsBigEndian : Obligations.FetchIsBigEndian :=
  fun s => Memory.toNat_readWord s.mem s.pc.toNat

end Sys2Proof.Machine
end

section
/-! PROOFS. The record that every word decodes to (30_encoding.md R61, R62). -/

namespace Sys2Proof.Laws

open Sys2Proof

/-- A slice as a number: dividing drops the bits below it, the remainder drops the bits above it. -/
theorem toNat_extractLsb' {w : Nat} (op : BitVec w) (k n : Nat) :
    (op.extractLsb' k n).toNat = op.toNat / 2 ^ k % 2 ^ n := by
  rw [BitVec.extractLsb'_toNat, Nat.shiftRight_eq_div_pow]

/-- A slice at the low end needs no division. -/
theorem toNat_extractLsb'_zero {w : Nat} (op : BitVec w) (n : Nat) :
    (op.extractLsb' 0 n).toNat = op.toNat % 2 ^ n := by
  rw [toNat_extractLsb', Nat.pow_zero, Nat.div_one]

/-- The group is the top slice, so no bits stand above it to drop. -/
theorem toNat_ofWord_g (op : Word) : (Fields.ofWord op).g.toNat = op.toNat / 4096 := by
  have hlt : op.toNat / 4096 < 16 := Nat.div_lt_of_lt_mul op.isLt
  exact (toNat_extractLsb' op 12 4).trans (Nat.mod_eq_of_lt hlt)

/-- The overlapping fields agree in the record of every word (30_encoding.md R62). -/
theorem wellFormed_ofWord (op : Word) : (Fields.ofWord op).wellFormed = true := by
  have hkk : (Fields.ofWord op).kkAgrees = true := beq_iff_eq.2 (y_append_n op).symm
  have hnnn : (Fields.ofWord op).nnnAgrees = true := beq_iff_eq.2 (x_append_kk op).symm
  rw [Fields.wellFormed, hkk, hnnn, Bool.and_self]

/-- Settles O5: the slices that meet in the word agree in the record, and each slice is a quotient and a remainder. -/
theorem everyWordGivesWellFormedRecord : Obligations.EveryWordGivesWellFormedRecord :=
  fun op => ⟨wellFormed_ofWord op, toNat_ofWord_g op, toNat_extractLsb' op 8 4, toNat_extractLsb' op 4 4,
    toNat_extractLsb'_zero op 4, toNat_extractLsb'_zero op 8, toNat_extractLsb'_zero op 12⟩

end Sys2Proof.Laws
end

section
/-! PROOFS. Cycles that write `pc` and no other part: jumps and conditional skips (40_control.md R82, R84 to R88). -/

namespace Sys2Proof.Machine

open Sys2Proof

/-! ### What a write of `pc` and the count of the timers leave unchanged -/

theorem unchangedBut_jumpTo (s : State) (w : Word) : UnchangedBut [.pc] s (s.jumpTo w) := by
  intro p hp
  cases p with
  | pc => simp at hp
  | _ => simp [Part.Same, State.keyDown]

theorem unchangedBut_tick (s : State) : UnchangedBut [.timers] s s.tick := by
  intro p hp
  cases p with
  | timers => simp at hp
  | _ => simp [Part.Same]

/-- A skip is a jump over one or two words (00_scope.md R7). -/
theorem State.advance_skipIf_eq_jumpTo (s : State) (c : Bool) :
    s.advance.skipIf c = s.jumpTo (if c then s.pc + 4 else s.pc + 2) := by
  cases c with
  | false => rfl
  | true => exact congrArg s.jumpTo (add_two_add_two s.pc)

/-- The handler left the timers alone, so the count starts from the values before the cycle (60_exceptions.md R151). -/
theorem UnchangedBut.timersCounted_tick {written : List Part} {s t : State} (h : UnchangedBut written s t)
    (ht : Part.timers ∉ written) : TimersCounted s t.tick := by
  obtain ⟨hdt, hst⟩ := h .timers ht
  exact ⟨by rw [State.tick_dt, countDown_toNat, hdt], by rw [State.tick_st, countDown_toNat, hst]⟩

/-! ### The cycles -/

/-- A jump is a completed cycle whose frame is everything but `pc` and the timers. -/
theorem complete_jumpTo (s : State) (w : Word) :
    ∃ t, complete (s.jumpTo w) = .next t ∧ t.pc = w ∧ TimersCounted s t ∧ UnchangedBut [.pc, .timers] s t := by
  have hjump := unchangedBut_jumpTo s w
  have hframe : UnchangedBut [.pc, .timers] s (s.jumpTo w).tick :=
    (hjump.mono (by decide)).trans ((unchangedBut_tick _).mono (by decide))
  exact ⟨_, complete_eq _, rfl, hjump.timersCounted_tick (by decide), hframe⟩

/-- The cycle of a skip, its Boolean test `c` deciding the condition `P` of the rule. -/
theorem complete_advance_skipIf (s : State) {c : Bool} {P : Prop} [Decidable P] (hc : c = true ↔ P) :
    ∃ t, complete (s.advance.skipIf c) = .next t ∧ t.pc = (if P then s.pc + 4 else s.pc + 2) ∧
      TimersCounted s t ∧ UnchangedBut [.pc, .timers] s t := by
  have htarget : (if c then s.pc + 4 else s.pc + 2) = if P then s.pc + 4 else s.pc + 2 := by simp only [hc]
  rw [State.advance_skipIf_eq_jumpTo, htarget]
  exact complete_jumpTo s _

/-- Settles O23: each skip is one skip cycle, and its test on bytes decides its condition. -/
theorem registerSkips : Obligations.RegisterSkips :=
  fun _ _ _ _ s => ⟨complete_advance_skipIf s beq_iff_eq, complete_advance_skipIf s bne_iff_ne,
    complete_advance_skipIf s beq_iff_eq, complete_advance_skipIf s bne_iff_ne⟩

/-- Settles O22: both are jumps, and 16 bits hold each target, the sum of R88 included. -/
theorem jumpsSetThePc : Obligations.JumpsSetThePc := by
  intro nnn s
  obtain ⟨t, ht, htpc, htTimers, htFrame⟩ := complete_jumpTo s (absolute nnn)
  obtain ⟨u, hu, hupc, huTimers, huFrame⟩ := complete_jumpTo s (regRelative (s.reg 0) nnn)
  exact ⟨⟨t, ht, htpc ▸ absolute_toNat nnn, htTimers, htFrame⟩,
    ⟨u, hu, hupc ▸ regRelative_toNat (s.reg 0) nnn, huTimers, huFrame⟩⟩

end Sys2Proof.Machine
end

section
/-! PROOFS. Completed cycles, and those that write one register: loads, logic and Add immediate (41_alu.md R101 to R106). -/

namespace Sys2Proof.Machine

open Sys2Proof

/-! ### Completed cycles -/

theorem unchangedBut_advance (s : State) : UnchangedBut [.pc] s s.advance := unchangedBut_jumpTo s (s.pc + 2)

theorem unchangedBut_setReg (s : State) (x : RegNum) (b : Byte) : UnchangedBut [.regs] s (s.setReg x b) := by
  intro p hp
  cases p with
  | regs => simp at hp
  | _ => simp [Part.Same, State.keyDown]

/-- A handler that starts from the advanced state and leaves `pc` and the timers alone makes an ordinary cycle
(10_state.md R14, 60_exceptions.md R151). -/
theorem UnchangedBut.completes_tick {written : List Part} {s t : State} (h : UnchangedBut written s.advance t)
    (hpc : Part.pc ∉ written) (ht : Part.timers ∉ written) : Completes written s t.tick where
  pc := h .pc hpc
  timers := h.timersCounted_tick ht
  frame :=
    have hadvance : UnchangedBut (.pc :: .timers :: written) s s.advance := (unchangedBut_advance s).mono (by simp)
    have hhandler : UnchangedBut (.pc :: .timers :: written) s.advance t :=
      h.mono fun _ hp => List.mem_cons_of_mem _ (List.mem_cons_of_mem _ hp)
    have htick : UnchangedBut (.pc :: .timers :: written) t t.tick := (unchangedBut_tick t).mono (by simp)
    (hadvance.trans hhandler).trans htick

/-! ### Cycles that write one register -/

/-- No register but the destination changes, the flag register included. -/
theorem complete_advance_setReg (s : State) (x : RegNum) (b : Byte) :
    ∃ t, complete (s.advance.setReg x b) = .next t ∧ Completes [.regs] s t ∧ WritesReg x b s t :=
  ⟨_, complete_eq _, (unchangedBut_setReg s.advance x b).completes_tick (by decide) (by decide),
    fun r => State.reg_setReg s.advance x r b⟩

/-- Settles O27: each of the five is the cycle that writes one register, with its own byte. -/
theorem loadMoveAndLogic : Obligations.LoadMoveAndLogic :=
  fun x y kk s => ⟨complete_advance_setReg s x kk, complete_advance_setReg s x (s.reg y),
    complete_advance_setReg s x (s.reg x ||| s.reg y), complete_advance_setReg s x (s.reg x &&& s.reg y),
    complete_advance_setReg s x (s.reg x ^^^ s.reg y)⟩

/-- Settles O28: it is the cycle that writes one register, and the sum of two bytes is taken modulo 256. -/
theorem addImmediateWrapsWithoutFlag : Obligations.AddImmediateWrapsWithoutFlag := by
  intro x kk s
  obtain ⟨t, ht, hcompletes, hwrites⟩ := complete_advance_setReg s x (s.reg x + kk)
  have hx : t.reg x = s.reg x + kk := (hwrites x).trans (if_pos rfl)
  exact ⟨t, ht, hcompletes, hx ▸ BitVec.toNat_add (s.reg x) kk, fun r hr => (hwrites r).trans (if_neg hr)⟩

end Sys2Proof.Machine
end

section
/-! PROOFS. Clear screen, a cycle that writes the framebuffer and the dirty mark (42_display.md R121). -/

namespace Sys2Proof.Machine

open Sys2Proof

theorem unchangedBut_setScreen (s : State) (fb : Framebuffer) (dirty : Bool) :
    UnchangedBut [.screen, .dirty] s { s with fb := fb, dirty := dirty } := by
  intro p hp
  cases p with
  | screen => simp at hp
  | dirty => simp at hp
  | _ => simp [Part.Same, State.reg, State.keyDown]

/-- No part but the display changes, and the new framebuffer and dirty mark are the ones given. -/
theorem complete_advance_setScreen (s : State) (fb : Framebuffer) (dirty : Bool) :
    ∃ t, complete { s.advance with fb := fb, dirty := dirty } = .next t ∧ Completes [.screen, .dirty] s t ∧
      t.fb = fb ∧ t.dirty = dirty :=
  ⟨_, complete_eq _, (unchangedBut_setScreen s.advance fb dirty).completes_tick (by decide) (by decide), rfl, rfl⟩

/-- Settles O33: it is the cycle that writes the display, with the framebuffer of which every cell is unset. -/
theorem clearScreenUnsetsEveryCell : Obligations.ClearScreenUnsetsEveryCell := by
  intro _ s
  obtain ⟨t, ht, hcompletes, hfb, hdirty⟩ := complete_advance_setScreen s clearScreen true
  have hcells : ∀ k, k < 2048 → cellAt t.fb k = false := fun k _ => hfb ▸ cellAt_clearScreen k
  exact ⟨t, ht, hcompletes, hcells, hdirty⟩

end Sys2Proof.Machine
end

section
/-! PROOFS. The key wait, and the cycles that set a timer (43_keypad_timer.md R132 to R135). -/

namespace Sys2Proof.Machine

open Sys2Proof

/-! ### The key wait -/

/-- The replay takes back the advance, so the cycle starts and ends at the same instruction. -/
theorem State.replay_advance (s : State) : s.advance.replay = s := by
  have hpc : s.pc + 2 - 2 = s.pc := BitVec.add_sub_cancel s.pc 2
  calc s.advance.replay
      = { s with pc := s.pc + 2 - 2 } := rfl
    _ = s := by rw [hpc]

theorem exec_ldVxK_of_lowest (x : RegNum) {s : State} {k : KeyNum} (hk : s.keyDown k = true)
    (hlow : ∀ j, j < k → s.keyDown j = false) : exec (.ldVxK x) s = complete (s.advance.setReg x (keyByte k)) := by
  have hfound : s.lowestKey = some k := State.lowestKey_eq_some.2 ⟨hk, hlow⟩
  rw [exec, execLdVxK, hfound]

theorem exec_ldVxK_of_noKey (x : RegNum) {s : State} (h : ∀ k, s.keyDown k = false) :
    exec (.ldVxK x) s = complete s := by
  have hnone : s.lowestKey = none := State.lowestKey_eq_none.2 h
  rw [exec, execLdVxK, hnone, State.replay_advance]

/-- A cycle whose handler leaves the state as it was: only the timers move (60_exceptions.md R151). -/
theorem complete_self (s : State) :
    ∃ t, complete s = .next t ∧ TimersCounted s t ∧ UnchangedBut [.timers] s t :=
  ⟨_, complete_eq s, (UnchangedBut.refl [] s).timersCounted_tick (by decide), unchangedBut_tick s⟩

/-- Settles O38: with a key it is the cycle that writes one register, without one the cycle that writes nothing. -/
theorem keyWaitStoresLowestKeyOrReplays : Obligations.KeyWaitStoresLowestKeyOrReplays := by
  intro x s
  constructor
  · intro k hk hlow
    rw [exec_ldVxK_of_lowest x hk hlow]
    exact complete_advance_setReg s x (keyByte k)
  · intro hnone
    rw [exec_ldVxK_of_noKey x hnone]
    exact complete_self s

/-! ### Cycles that set a timer -/

theorem unchangedBut_setTimers (s : State) (dt st : Byte) :
    UnchangedBut [.timers] s { s with dt := dt, st := st } := by
  intro p hp
  cases p with
  | timers => simp at hp
  | _ => simp [Part.Same, State.reg, State.keyDown]

/-- The count at the end of the cycle is made on the timers the handler left (60_exceptions.md R151). -/
theorem complete_advance_setTimers (s : State) (dt st : Byte) :
    ∃ t, complete { s.advance with dt := dt, st := st } = .next t ∧ t.pc = s.pc + 2 ∧
      t.dt.toNat = dt.toNat - 1 ∧ t.st.toNat = st.toNat - 1 ∧ UnchangedBut [.pc, .timers] s t :=
  have hadvance : UnchangedBut [.pc, .timers] s s.advance := (unchangedBut_advance s).mono (by decide)
  have hset : UnchangedBut [.pc, .timers] s.advance { s.advance with dt := dt, st := st } :=
    (unchangedBut_setTimers s.advance dt st).mono (by decide)
  have htick := (unchangedBut_tick { s.advance with dt := dt, st := st }).mono (written' := [.pc, .timers]) (by decide)
  ⟨_, complete_eq _, rfl, countDown_toNat dt, countDown_toNat st, (hadvance.trans hset).trans htick⟩

/-- Settles O40: the load is the cycle that writes one register, with the timer before the count; each of the other two
sets its own timer and leaves the other to the count. -/
theorem timerTransfers : Obligations.TimerTransfers := by
  intro x s
  obtain ⟨t, ht, htpc, htdt, htst, htFrame⟩ := complete_advance_setTimers s (s.reg x) s.st
  obtain ⟨u, hu, hupc, hudt, hust, huFrame⟩ := complete_advance_setTimers s s.dt (s.reg x)
  exact ⟨complete_advance_setReg s x s.dt, ⟨t, ht, htpc, htdt, htst, htFrame⟩, ⟨u, hu, hupc, hust, hudt, huFrame⟩⟩

end Sys2Proof.Machine
end

section
/-! PROOFS. Load index, a cycle that writes the index register (44_index_memory.md R140). -/

namespace Sys2Proof.Machine

open Sys2Proof

theorem unchangedBut_setIdx (s : State) (a : Addr) : UnchangedBut [.index] s { s with idx := a } := by
  intro p hp
  cases p with
  | index => simp at hp
  | _ => simp [Part.Same, State.reg, State.keyDown]

/-- No part but the index register changes, and it holds the address given. -/
theorem complete_advance_setIdx (s : State) (a : Addr) :
    ∃ t, complete { s.advance with idx := a } = .next t ∧ Completes [.index] s t ∧ t.idx = a :=
  ⟨_, complete_eq _, (unchangedBut_setIdx s.advance a).completes_tick (by decide) (by decide), rfl⟩

/-- Settles O41: it is the cycle that writes the index register, with the address of the instruction. -/
theorem loadIndexSetsI : Obligations.LoadIndexSetsI :=
  fun nnn s => complete_advance_setIdx s nnn

end Sys2Proof.Machine
end

section
/-! PROOFS. The decoder and the encoder are inverse to each other, and the decoder is the opcode table
(30_encoding.md R60 to R70). -/

namespace Sys2Proof.Laws

open Sys2Proof

/-! ### Decoding the word of an instruction -/

@[simp] theorem regNum_regField (x : RegNum) : regNum (regField x) = x := rfl

/-- The decoder finds the group, the sub-key and the operands that the encoder wrote, format by format. -/
theorem decodeWord_encode (i : Instr) : decodeWord (encode i) = some i := by
  cases i with
  | jp | call | ldI | jpV0 => simp [decodeWord, decodeFields, encode, ofWord_formatA]
  | seImm | sneImm | ldImm | addImm | rnd => simp [decodeWord, decodeFields, encode, ofWord_formatXK]
  | cls | ret => simp [decodeWord, decodeFields, decodeGroup0, encode, ofWord_formatXK]
  | skp | sknp => simp [decodeWord, decodeFields, decodeGroupE, encode, ofWord_formatXK]
  | ldVxDT | ldVxK | ldDTVx | ldSTVx | addI | ldF | ldB | stBlock | ldBlock =>
    simp [decodeWord, decodeFields, decodeGroupF, encode, ofWord_formatXK]
  | seReg | sneReg | drw => simp [decodeWord, decodeFields, encode, ofWord_formatXYN]
  | ldReg | orReg | andReg | xorReg | addReg | subReg | shr | subnReg | shl =>
    simp [decodeWord, decodeFields, decodeGroup8, encode, ofWord_formatXYN]

theorem decodeBytes_bytesOfWord_append {w : Word} {i : Instr} (h : decodeWord w = some i) (rest : List Byte) :
    decodeBytes (bytesOfWord w ++ rest) = .instr i rest := by
  rw [bytesOfWord, List.cons_append, List.cons_append, List.nil_append, decodeBytes, wordOfBytes_bytesOfWord, h]

/-- A 16-bit word is its own table number. -/
@[simp] theorem tableWord_toNat (w : Word) : tableWord 16 w.toNat = w := by
  rw [tableWord, Nat.mod_eq_of_lt w.isLt, BitVec.ofNat_toNat, BitVec.setWidth_eq]

/-- Settles O1: the word is read back, and the two bytes in memory order form the word again. -/
theorem decodeOfEncode : Obligations.DecodeOfEncode := by
  intro i rest
  have hbytes := decodeBytes_bytesOfWord_append (decodeWord_encode i)
  have htable : decodeTableWord 16 (encode i).toNat = some i := by
    rw [decodeTableWord, tableWord_toNat, ← List.append_nil (bytesOfWord (encode i)), hbytes]
  exact ⟨decodeWord_encode i, hbytes rest, htable⟩

/-! ### Encoding what a word decodes to -/

theorem formatA_ofWord (op : Word) : formatA (Fields.ofWord op).g (Fields.ofWord op).nnn = op := append_nnn op

theorem formatXK_ofWord (op : Word) :
    formatXK (Fields.ofWord op).g (Fields.ofWord op).x (Fields.ofWord op).kk = op := by
  rw [formatXK, x_append_kk, append_nnn]

theorem formatXYN_ofWord (op : Word) :
    formatXYN (Fields.ofWord op).g (Fields.ofWord op).x (Fields.ofWord op).y (Fields.ofWord op).n = op := by
  rw [formatXYN, y_append_n, x_append_kk, append_nnn]

theorem encode_of_decodeGroup0 {f : Fields} {i : Instr} (h : decodeGroup0 f = some i) :
    encode i = formatXK 0x0 f.x f.kk := by
  unfold decodeGroup0 at h
  split_ifs at h with hkk hkk <;> cases h <;> rw [hkk] <;> rfl

theorem encode_of_decodeGroup8 {f : Fields} {i : Instr} (h : decodeGroup8 f = some i) :
    encode i = formatXYN 0x8 f.x f.y f.n := by
  unfold decodeGroup8 at h
  split_ifs at h with hn hn hn hn hn hn hn hn hn <;> cases h <;> rw [hn] <;> rfl

theorem encode_of_decodeGroupE {f : Fields} {i : Instr} (h : decodeGroupE f = some i) :
    encode i = formatXK 0xE f.x f.kk := by
  unfold decodeGroupE at h
  split_ifs at h with hkk hkk <;> cases h <;> rw [hkk] <;> rfl

theorem encode_of_decodeGroupF {f : Fields} {i : Instr} (h : decodeGroupF f = some i) :
    encode i = formatXK 0xF f.x f.kk := by
  unfold decodeGroupF at h
  split_ifs at h with hkk hkk hkk hkk hkk hkk hkk hkk hkk <;> cases h <;> rw [hkk] <;> rfl

theorem nibble_cases (g : Nibble) :
    g = 0x0 ∨ g = 0x1 ∨ g = 0x2 ∨ g = 0x3 ∨ g = 0x4 ∨ g = 0x5 ∨ g = 0x6 ∨ g = 0x7 ∨ g = 0x8 ∨ g = 0x9 ∨ g = 0xA ∨
      g = 0xB ∨ g = 0xC ∨ g = 0xD ∨ g = 0xE ∨ g = 0xF := by
  revert g
  decide

/-- Each arm of the decoder keeps the fields that its format joins. -/
theorem encode_of_decodeFields {f : Fields} {i : Instr} (h : decodeFields f = some i) :
    encode i = formatA f.g f.nnn ∨ encode i = formatXK f.g f.x f.kk ∨ encode i = formatXYN f.g f.x f.y f.n := by
  obtain ⟨g, x, y, n, kk, nnn⟩ := f
  obtain rfl | rfl | rfl | rfl | rfl | rfl | rfl | rfl | rfl | rfl | rfl | rfl | rfl | rfl | rfl | rfl := nibble_cases g
  · exact .inr (.inl (encode_of_decodeGroup0 h))
  · cases h; exact .inl rfl
  · cases h; exact .inl rfl
  · cases h; exact .inr (.inl rfl)
  · cases h; exact .inr (.inl rfl)
  · cases h; exact .inr (.inr rfl)
  · cases h; exact .inr (.inl rfl)
  · cases h; exact .inr (.inl rfl)
  · exact .inr (.inr (encode_of_decodeGroup8 h))
  · cases h; exact .inr (.inr rfl)
  · cases h; exact .inl rfl
  · cases h; exact .inl rfl
  · cases h; exact .inr (.inl rfl)
  · cases h; exact .inr (.inr rfl)
  · exact .inr (.inl (encode_of_decodeGroupE h))
  · exact .inr (.inl (encode_of_decodeGroupF h))

/-- Settles O2: the joined fields of a word are the word. -/
theorem encodeOfDecode : Obligations.EncodeOfDecode := by
  intro op i h
  obtain hA | hXK | hXYN := encode_of_decodeFields h
  · exact hA.trans (formatA_ofWord op)
  · exact hXK.trans (formatXK_ofWord op)
  · exact hXYN.trans (formatXYN_ofWord op)

/-! ### The words that are not recognised -/

theorem decodeFields_eq_none {f : Fields} :
    decodeFields f = none ↔
      (f.g = 0x0 ∧ decodeGroup0 f = none) ∨ (f.g = 0x8 ∧ decodeGroup8 f = none) ∨
      (f.g = 0xE ∧ decodeGroupE f = none) ∨ (f.g = 0xF ∧ decodeGroupF f = none) := by
  obtain ⟨g, x, y, n, kk, nnn⟩ := f
  obtain rfl | rfl | rfl | rfl | rfl | rfl | rfl | rfl | rfl | rfl | rfl | rfl | rfl | rfl | rfl | rfl :=
    nibble_cases g <;> simp [decodeFields]

theorem ite_some_eq_none {α : Type} {c : Prop} [Decidable c] {a : α} {o : Option α} :
    (if c then some a else o) = none ↔ ¬c ∧ o = none := by
  split_ifs with hc <;> simp [hc]

theorem decodeGroup0_eq_none {f : Fields} : decodeGroup0 f = none ↔ f.kk.toNat ∉ [0xE0, 0xEE] := by
  simp [decodeGroup0, ite_some_eq_none, ← BitVec.toNat_inj]

theorem decodeGroup8_eq_none {f : Fields} :
    decodeGroup8 f = none ↔ f.n.toNat ∈ [0x8, 0x9, 0xA, 0xB, 0xC, 0xD, 0xF] := by
  have := f.n.isLt
  simp only [decodeGroup8, ite_some_eq_none, ← BitVec.toNat_inj, BitVec.reduceToNat, List.mem_cons, List.not_mem_nil,
    and_true, or_false]
  omega

theorem decodeGroupE_eq_none {f : Fields} : decodeGroupE f = none ↔ f.kk.toNat ∉ [0x9E, 0xA1] := by
  simp [decodeGroupE, ite_some_eq_none, ← BitVec.toNat_inj]

theorem decodeGroupF_eq_none {f : Fields} :
    decodeGroupF f = none ↔ f.kk.toNat ∉ [0x07, 0x0A, 0x15, 0x18, 0x1E, 0x29, 0x33, 0x55, 0x65] := by
  simp [decodeGroupF, ite_some_eq_none, ← BitVec.toNat_inj]

/-- Settles O4: a group without a sub-key recognises all its words, the others those with a listed one. -/
theorem unrecognizedWordsByGroup : Obligations.UnrecognizedWordsByGroup := by
  intro op
  have hkk : (Fields.ofWord op).kk.toNat = op.toNat % 256 := toNat_extractLsb'_zero op 8
  have hn : (Fields.ofWord op).n.toNat = op.toNat % 16 := toNat_extractLsb'_zero op 4
  rw [decodeWord, decodeFields_eq_none, decodeGroup0_eq_none, decodeGroup8_eq_none, decodeGroupE_eq_none,
    decodeGroupF_eq_none, hkk, hn, ← toNat_ofWord_g]
  simp only [← BitVec.toNat_inj]
  rfl

/-! ### The opcode table -/

/-- Where the mask of a row is all ones, the word shows the bits of the row's value. -/
theorem extractLsb'_of_selects {r : OpcodeRow} {op : Word} (h : r.selects op = true) {k n : Nat}
    (hm : r.mask.extractLsb' k n = BitVec.allOnes n) : op.extractLsb' k n = r.value.extractLsb' k n := by
  have hvalue : op &&& r.mask = r.value := beq_iff_eq.1 h
  rw [← hvalue, BitVec.extractLsb'_and, hm, BitVec.and_allOnes]

/-- Two rows of the table give different values to the bits that both of them test. -/
theorem opcodeTable_disjoint :
    ∀ r ∈ opcodeTable, ∀ r' ∈ opcodeTable, r.value &&& r'.mask = r'.value &&& r.mask → r = r' := by
  decide

theorem eq_of_selects {r r' : OpcodeRow} (hr : r ∈ opcodeTable) (hr' : r' ∈ opcodeTable) {op : Word}
    (h : r.selects op = true) (h' : r'.selects op = true) : r = r' := by
  refine opcodeTable_disjoint r hr r' hr' ?_
  rw [← beq_iff_eq.1 h, ← beq_iff_eq.1 h', BitVec.and_assoc, BitVec.and_assoc, BitVec.and_comm r.mask]

/-- The masks of the table test the group, and the sub-key of the groups that have one. -/
theorem group_of_selects {i : Instr} {op : Word} (h : (opcodeRow i).selects op = true) :
    (Fields.ofWord op).g = (opcodeRow i).value.extractLsb' 12 4 :=
  extractLsb'_of_selects h (by cases i <;> simp [opcodeRow])

theorem lowByte_of_selects {r : OpcodeRow} {op : Word} (h : r.selects op = true) (hm : r.mask = 0xF0FF) :
    (Fields.ofWord op).kk = r.value.extractLsb' 0 8 :=
  extractLsb'_of_selects h (by simp [hm])

theorem lowNibble_of_selects {r : OpcodeRow} {op : Word} (h : r.selects op = true) (hm : r.mask = 0xF00F) :
    (Fields.ofWord op).n = r.value.extractLsb' 0 4 :=
  extractLsb'_of_selects h (by simp [hm])

/-- A word that selects a row has the group of that row, and its sub-key where the group has one. -/
theorem decodeWord_ne_none_of_selects {i : Instr} {op : Word} (h : (opcodeRow i).selects op = true) :
    decodeWord op ≠ none := by
  rw [decodeWord, Ne, decodeFields_eq_none, group_of_selects h]
  cases i with
  | cls | ret => simp [opcodeRow, decodeGroup0, lowByte_of_selects h rfl]
  | skp | sknp => simp [opcodeRow, decodeGroupE, lowByte_of_selects h rfl]
  | ldVxDT | ldVxK | ldDTVx | ldSTVx | addI | ldF | ldB | stBlock | ldBlock =>
    simp [opcodeRow, decodeGroupF, lowByte_of_selects h rfl]
  | ldReg | orReg | andReg | xorReg | addReg | subReg | shr | subnReg | shl =>
    simp [opcodeRow, decodeGroup8, lowNibble_of_selects h rfl]
  | _ => simp [opcodeRow]

theorem exists_opcodeRow_of_mem {r : OpcodeRow} (h : r ∈ opcodeTable) : ∃ i, opcodeRow i = r := by
  obtain ⟨i, -, hi⟩ := List.mem_map.1 h
  exact ⟨i, hi⟩

theorem rowOf_statement (i : Instr) : RowOf.Statement i :=
  match i with
  | .cls u => RowOf.cls u
  | .ret u => RowOf.ret u
  | .jp nnn => RowOf.jp nnn
  | .call nnn => RowOf.call nnn
  | .seImm x kk => RowOf.seImm x kk
  | .sneImm x kk => RowOf.sneImm x kk
  | .seReg x y u => RowOf.seReg x y u
  | .sneReg x y u => RowOf.sneReg x y u
  | .ldImm x kk => RowOf.ldImm x kk
  | .addImm x kk => RowOf.addImm x kk
  | .ldReg x y => RowOf.ldReg x y
  | .orReg x y => RowOf.orReg x y
  | .andReg x y => RowOf.andReg x y
  | .xorReg x y => RowOf.xorReg x y
  | .addReg x y => RowOf.addReg x y
  | .subReg x y => RowOf.subReg x y
  | .shr x y => RowOf.shr x y
  | .subnReg x y => RowOf.subnReg x y
  | .shl x y => RowOf.shl x y
  | .ldI nnn => RowOf.ldI nnn
  | .jpV0 nnn => RowOf.jpV0 nnn
  | .rnd x kk => RowOf.rnd x kk
  | .drw x y n => RowOf.drw x y n
  | .skp x => RowOf.skp x
  | .sknp x => RowOf.sknp x
  | .ldVxDT x => RowOf.ldVxDT x
  | .ldVxK x => RowOf.ldVxK x
  | .ldDTVx x => RowOf.ldDTVx x
  | .ldSTVx x => RowOf.ldSTVx x
  | .addI x => RowOf.addI x
  | .ldF x => RowOf.ldF x
  | .ldB x => RowOf.ldB x
  | .stBlock x => RowOf.stBlock x
  | .ldBlock x => RowOf.ldBlock x

/-- A recognised word selects the row of its instruction, since it is the word of that instruction. -/
theorem selects_of_decodeWord {op : Word} {i : Instr} (h : decodeWord op = some i) :
    (opcodeRow i).selects op = true ∧ opcodeRow i ∈ opcodeTable :=
  encodeOfDecode op i h ▸ rowOf_statement i

/-- Settles O3: a recognised word selects the row of its instruction, two rows never share a word, and a word that
selects a row is recognised. -/
theorem decodingFollowsOpcodeTable : Obligations.DecodingFollowsOpcodeTable := by
  refine ⟨rfl, fun op i h => ?_, fun op => ⟨fun hnone r hr => ?_, fun hall => ?_⟩⟩
  · obtain ⟨hsel, hmem⟩ := selects_of_decodeWord h
    exact ⟨hmem, fun r hr => ⟨fun hr' => eq_of_selects hr hmem hr' hsel, fun heq => heq ▸ hsel⟩⟩
  · obtain ⟨i, rfl⟩ := exists_opcodeRow_of_mem hr
    exact Bool.eq_false_iff.2 fun hsel => decodeWord_ne_none_of_selects hsel hnone
  · refine Option.eq_none_iff_forall_ne_some.2 fun i hi => ?_
    obtain ⟨hsel, hmem⟩ := selects_of_decodeWord hi
    exact Bool.false_ne_true ((hall _ hmem).symm.trans hsel)

end Sys2Proof.Laws
end

section
/-! PROOFS. The cycle of an instruction in two parts: the fault its handler raises, if any, and the state it leaves when
it raises none. Frames, invariants and noninterference are proved of these two and not of the 34 arms of `exec`. -/

namespace Sys2Proof.Machine

open Sys2Proof

/-! ### The two parts -/

/-- The fault that the handler of `i` raises (60_exceptions.md R158 to R162), the fetched word being that of `i`. -/
def handlerFault (i : Instr) (s : State) : Option (FaultCause × Word) :=
  stackFault i (encode i) s <|> memoryFault i s <|> keyFault i s

/-- The state that the handler of `i` leaves before the timers count. It is tied to `exec` by `exec_eq_ending`; where
the handler faults it means nothing. -/
def handled (i : Instr) (s : State) : State :=
  match i with
  | .cls _ => { s.advance with fb := clearScreen, dirty := true }
  | .ret _ => s.pop.elim s fun p => p.2.jumpTo p.1
  | .jp nnn => s.jumpTo (absolute nnn)
  | .call nnn => (s.push s.advance.pc).elim s fun t => t.jumpTo (absolute nnn)
  | .seImm x kk => s.advance.skipIf (s.reg x == kk)
  | .sneImm x kk => s.advance.skipIf (s.reg x != kk)
  | .seReg x y _ => s.advance.skipIf (s.reg x == s.reg y)
  | .sneReg x y _ => s.advance.skipIf (s.reg x != s.reg y)
  | .ldImm x kk => s.advance.setReg x kk
  | .addImm x kk => s.advance.setReg x (s.reg x + kk)
  | .ldReg x y => s.advance.setReg x (s.reg y)
  | .orReg x y => s.advance.setReg x (s.reg x ||| s.reg y)
  | .andReg x y => s.advance.setReg x (s.reg x &&& s.reg y)
  | .xorReg x y => s.advance.setReg x (s.reg x ^^^ s.reg y)
  | .addReg x y => s.advance.flagThenResult x (carryOut (s.reg x) (s.reg y)) fun t => t.reg x + t.reg y
  | .subReg x y => s.advance.flagThenResult x (notBorrow (s.reg x) (s.reg y)) fun t => t.reg x - t.reg y
  | .shr x _ => s.advance.flagThenResult x (shiftedOutRight (s.reg x)) fun t => t.reg x >>> 1
  | .subnReg x y => s.advance.flagThenResult x (notBorrow (s.reg y) (s.reg x)) fun t => t.reg y - t.reg x
  | .shl x _ => s.advance.flagThenResult x (shiftedOutLeft (s.reg x)) fun t => t.reg x <<< 1
  | .ldI nnn => { s.advance with idx := nnn }
  | .jpV0 nnn => s.jumpTo (regRelative (s.reg 0) nnn)
  | .rnd x kk => s.advance.drawInto (Config.freeByte s.draws) x kk
  | .drw x y n => s.advance.drawSprite x y n.toNat
  | .skp x => (keyIndex (s.reg x)).elim s fun k => s.advance.skipIf (s.keyDown k == true)
  | .sknp x => (keyIndex (s.reg x)).elim s fun k => s.advance.skipIf (s.keyDown k == false)
  | .ldVxDT x => s.advance.setReg x s.dt
  | .ldVxK x => s.lowestKey.elim s fun k => s.advance.setReg x (keyByte k)
  | .ldDTVx x => { s.advance with dt := s.reg x }
  | .ldSTVx x => { s.advance with st := s.reg x }
  | .addI x => { s.advance with idx := indexPlus s.idx (s.reg x).toNat }
  | .ldF x => { s.advance with idx := glyphAddr (s.reg x) }
  | .ldB x => { s.advance with mem := s.mem.writeBytes s.idx.toNat (bcdDigits (s.reg x)) }
  | .stBlock x =>
    { s.advance with mem := s.mem.writeBytes s.idx.toNat (s.regBlock x), idx := indexPlus s.idx (x.val + 1) }
  | .ldBlock x => { s.advance.loadRegBlock x s.idx.toNat with idx := indexPlus s.idx (x.val + 1) }

/-! ### The handlers of Call and Return -/

theorem handled_call_of_lt (nnn : Addr) {s : State} (h : s.sp.val < 16) : handled (.call nnn) s =
    State.jumpTo { s with stack := s.stack.set s.sp.val (s.pc + 2), sp := ⟨s.sp.val + 1, by omega⟩ }
      (absolute nnn) := by
  rw [handled, State.push_of_lt s _ h]
  rfl

theorem handled_call_of_full (nnn : Addr) {s : State} (h : 16 ≤ s.sp.val) : handled (.call nnn) s = s := by
  rw [handled, State.push_of_full s _ (Fin.ext (Nat.le_antisymm (Nat.le_of_lt_succ s.sp.isLt) h))]
  rfl

theorem handled_ret_of_pos (u : Nibble) {s : State} (h : 0 < s.sp.val) : handled (.ret u) s =
    State.jumpTo { s with sp := ⟨s.sp.val - 1, by omega⟩ } s.stack[s.sp.val - 1] := by
  rw [handled, State.pop_of_pos s h]
  rfl

theorem handled_ret_of_empty (u : Nibble) {s : State} (h : s.sp.val = 0) : handled (.ret u) s = s := by
  rw [handled, State.pop_of_empty s (Fin.ext h)]
  rfl

/-! ### The fault of each kind of handler -/

theorem memoryFault_of_accessCount_zero {i : Instr} (h : accessCount i = 0) (s : State) : memoryFault i s = none := by
  simp [memoryFault, h]

theorem memoryFault_of_accessCount_succ {i : Instr} {k : Nat} (h : accessCount i = k + 1) (s : State) :
    memoryFault i s =
      if 0xFFF < s.idx.toNat + k then some (.memoryOutOfRange, .ofNat 16 (s.idx.toNat + k)) else none := by
  simp [memoryFault, h, ← Nat.add_assoc]

/-- An instruction that is no Call, no Return and no key skip, and that touches no memory, does not fault. -/
theorem handlerFault_eq_memoryFault {i : Instr} {s : State} (hstack : stackFault i (encode i) s = none)
    (hkey : keyFault i s = none) : handlerFault i s = memoryFault i s := by
  simp [handlerFault, hstack, hkey]

theorem handlerFault_call (nnn : Addr) (s : State) :
    handlerFault (.call nnn) s = if s.sp = 16 then some (.stackOverflow, encode (.call nnn)) else none := by
  have hmem : memoryFault (.call nnn) s = none := memoryFault_of_accessCount_zero rfl s
  simp [handlerFault, stackFault, keyFault, hmem]

theorem handlerFault_ret (u : Nibble) (s : State) :
    handlerFault (.ret u) s = if s.sp = 0 then some (.stackUnderflow, encode (.ret u)) else none := by
  have hmem : memoryFault (.ret u) s = none := memoryFault_of_accessCount_zero rfl s
  simp [handlerFault, stackFault, keyFault, hmem]

theorem handlerFault_skp (x : RegNum) (s : State) : handlerFault (.skp x) s =
    if (s.reg x).toNat > 15 then some (.keyIndexOutOfRange, byteInfo (s.reg x)) else none := by
  have hmem : memoryFault (.skp x) s = none := memoryFault_of_accessCount_zero rfl s
  simp [handlerFault, stackFault, keyFault, hmem, byteInfo]

theorem handlerFault_sknp (x : RegNum) (s : State) : handlerFault (.sknp x) s =
    if (s.reg x).toNat > 15 then some (.keyIndexOutOfRange, byteInfo (s.reg x)) else none := handlerFault_skp x s

/-! ### `exec` is made of the two parts -/

/-- How a cycle ends, given the fault of its handler and the state its handler leaves. -/
def ending (fault : Option (FaultCause × Word)) (t s : State) : Outcome :=
  fault.elim (complete t) fun p => trap p.1 p.2 s

theorem completeWithin_eq_ending (last : Nat) (t s : State) : completeWithin last t s =
    ending (if 0xFFF < last then some (.memoryOutOfRange, .ofNat 16 last) else none) t s := by
  unfold completeWithin Config.memSize
  split_ifs with h h' h'
  · omega
  · rfl
  · rfl
  · omega

theorem execRet_eq_ending (u : Nibble) (s : State) :
    execRet u s = ending (handlerFault (.ret u) s) (handled (.ret u) s) s := by
  rw [handlerFault_ret]
  rcases Nat.eq_zero_or_pos s.sp.val with hsp | hsp
  · rw [execRet, State.pop_of_empty s (Fin.ext hsp), if_pos (Fin.ext hsp)]
    rfl
  · rw [execRet, State.pop_of_pos s hsp, handled_ret_of_pos u hsp, if_neg fun h => hsp.ne' (congrArg Fin.val h)]
    rfl

theorem execCall_eq_ending (nnn : Addr) (s : State) :
    execCall nnn s = ending (handlerFault (.call nnn) s) (handled (.call nnn) s) s := by
  rw [handlerFault_call]
  rcases Nat.lt_or_ge s.sp.val 16 with hsp | hsp
  · rw [execCall, State.push_of_lt s _ hsp, handled_call_of_lt nnn hsp, if_neg fun h => hsp.ne (congrArg Fin.val h)]
    rfl
  · have hfull : s.sp = 16 := Fin.ext (Nat.le_antisymm (Nat.le_of_lt_succ s.sp.isLt) hsp)
    rw [execCall, State.push_of_full s _ hfull, if_pos hfull]
    rfl

theorem skipOnKey_eq_ending (x : RegNum) (level : Bool) (s : State) : skipOnKey x level s =
    ending (if (s.reg x).toNat > 15 then some (.keyIndexOutOfRange, byteInfo (s.reg x)) else none)
      ((keyIndex (s.reg x)).elim s fun k => s.advance.skipIf (s.keyDown k == level)) s := by
  by_cases h : (s.reg x).toNat > 15
  · rw [skipOnKey, keyIndex_of_ge h, if_pos h]
    rfl
  · rw [skipOnKey, keyIndex_of_lt (by omega), if_neg h]
    rfl

theorem execLdVxK_eq_complete (x : RegNum) (s : State) : execLdVxK x s = complete (handled (.ldVxK x) s) := by
  rw [execLdVxK, handled]
  cases s.lowestKey with
  | none => exact congrArg complete s.replay_advance
  | some k => rfl

/-- Everything an instruction can do, in the two parts (60_exceptions.md R150 to R153). -/
theorem exec_eq_ending (i : Instr) (s : State) : exec i s = ending (handlerFault i s) (handled i s) s := by
  cases i with
  | ret u => exact execRet_eq_ending u s
  | call nnn => exact execCall_eq_ending nnn s
  | skp x => rw [handlerFault_skp]; exact skipOnKey_eq_ending x true s
  | sknp x => rw [handlerFault_sknp]; exact skipOnKey_eq_ending x false s
  | ldVxK x => exact execLdVxK_eq_complete x s
  | ldB x =>
    rw [handlerFault_eq_memoryFault rfl rfl, memoryFault_of_accessCount_succ (k := 2) rfl]
    exact completeWithin_eq_ending _ _ s
  | stBlock x | ldBlock x =>
    rw [handlerFault_eq_memoryFault rfl rfl, memoryFault_of_accessCount_succ (k := x.val) rfl]
    exact completeWithin_eq_ending _ _ s
  | drw x y n =>
    rw [handlerFault_eq_memoryFault rfl rfl]
    refine (completeWithin_eq_ending _ _ s).trans ?_
    cases hn : n.toNat with
    | zero =>
      have hlast : ¬0xFFF < s.effAddr 0 - 1 := by have := s.idx.isLt; simp only [State.effAddr]; omega
      rw [memoryFault_of_accessCount_zero (i := .drw x y n) hn, if_neg hlast, handled, hn]
    | succ k => rw [memoryFault_of_accessCount_succ (i := .drw x y n) hn, handled, hn]; rfl
  | _ => rfl

theorem exec_of_fault {i : Instr} {s : State} {c : FaultCause} {w : Word} (h : handlerFault i s = some (c, w)) :
    exec i s = .next (s.raise c w) := by
  rw [exec_eq_ending, h]
  rfl

theorem exec_of_noFault {i : Instr} {s : State} (h : handlerFault i s = none) :
    exec i s = .next (handled i s).tick := by
  rw [exec_eq_ending, h]
  rfl

/-- The two ends of a cycle: a fault raised from the state before it, or a handler that completes, then the timers. -/
theorem exec_cases (i : Instr) (s : State) :
    (∃ c w, handlerFault i s = some (c, w) ∧ exec i s = .next (s.raise c w)) ∨
    (handlerFault i s = none ∧ exec i s = .next (handled i s).tick) := by
  cases h : handlerFault i s with
  | none => exact .inr ⟨rfl, exec_of_noFault h⟩
  | some p => exact .inl ⟨p.1, p.2, rfl, exec_of_fault h⟩

theorem exec_next_cases {i : Instr} {s t : State} (h : exec i s = .next t) :
    (∃ c w, handlerFault i s = some (c, w) ∧ t = s.raise c w) ∨ (handlerFault i s = none ∧ t = (handled i s).tick) := by
  rcases exec_cases i s with ⟨c, w, hfault, he⟩ | ⟨hnone, he⟩
  · exact .inl ⟨c, w, hfault, Host.Outcome.next.inj (h.symm.trans he)⟩
  · exact .inr ⟨hnone, Host.Outcome.next.inj (h.symm.trans he)⟩

/-! ### What the latch has to say of a fault -/

theorem stackFault_cases {i : Instr} {op w : Word} {s : State} {c : FaultCause} (h : stackFault i op s = some (c, w)) :
    (c = .stackOverflow ∧ s.sp = 16 ∧ w = op ∧ ∃ nnn, i = .call nnn) ∨
    (c = .stackUnderflow ∧ s.sp = 0 ∧ w = op ∧ ∃ u, i = .ret u) := by
  unfold stackFault at h
  split at h
  · split_ifs at h with hsp
    cases h
    exact .inl ⟨rfl, hsp, rfl, _, rfl⟩
  · split_ifs at h with hsp
    cases h
    exact .inr ⟨rfl, hsp, rfl, _, rfl⟩
  · cases h

theorem accessCount_le (i : Instr) : accessCount i ≤ 16 := by
  cases i with
  | drw x y n => exact n.isLt.le
  | stBlock x | ldBlock x => exact x.isLt
  | _ => simp [accessCount]

theorem memoryFault_cases {i : Instr} {s : State} {c : FaultCause} {w : Word} (h : memoryFault i s = some (c, w)) :
    c = .memoryOutOfRange ∧ 0x1000 ≤ w.toNat ∧ w.toNat ≤ 0x100E := by
  have hcount := accessCount_le i
  have hidx := s.idx.isLt
  unfold memoryFault at h
  split_ifs at h with hlast
  cases h
  refine ⟨rfl, ?_⟩
  rw [BitVec.toNat_ofNat, Nat.mod_eq_of_lt (by omega)]
  omega

theorem keyFault_cases {i : Instr} {s : State} {c : FaultCause} {w : Word} (h : keyFault i s = some (c, w)) :
    c = .keyIndexOutOfRange ∧ 16 ≤ w.toNat ∧ w.toNat ≤ 255 := by
  have hinfo (b : Byte) (hb : b.toNat > 15) : 16 ≤ (byteInfo b).toNat ∧ (byteInfo b).toNat ≤ 255 := by
    have := b.isLt
    rw [byteInfo_toNat]
    omega
  unfold keyFault at h
  split at h
  · split_ifs at h with hx
    cases h
    exact ⟨rfl, hinfo _ hx⟩
  · split_ifs at h with hx
    cases h
    exact ⟨rfl, hinfo _ hx⟩
  · cases h

/-- The fault of a handler is that of one of the three tests (60_exceptions.md R158 to R162). -/
theorem handlerFault_cases {i : Instr} {s : State} {c : FaultCause} {w : Word} (h : handlerFault i s = some (c, w)) :
    (c = .stackOverflow ∧ s.sp = 16 ∧ ∃ nnn, w = encode (.call nnn)) ∨
    (c = .stackUnderflow ∧ s.sp = 0 ∧ ∃ u, w = encode (.ret u)) ∨
    (c = .memoryOutOfRange ∧ 0x1000 ≤ w.toNat ∧ w.toNat ≤ 0x100E) ∨
    (c = .keyIndexOutOfRange ∧ 16 ≤ w.toNat ∧ w.toNat ≤ 255) := by
  have htests : stackFault i (encode i) s = some (c, w) ∨ memoryFault i s = some (c, w) ∨
      keyFault i s = some (c, w) := by
    simp only [handlerFault, Option.orElse_eq_orElse, Option.orElse_eq_or, Option.or_eq_some_iff] at h
    tauto
  rcases htests with hstack | hmem | hkey
  · rcases stackFault_cases hstack with ⟨rfl, hsp, rfl, nnn, rfl⟩ | ⟨rfl, hsp, rfl, u, rfl⟩
    · exact .inl ⟨rfl, hsp, nnn, rfl⟩
    · exact .inr (.inl ⟨rfl, hsp, u, rfl⟩)
  · exact .inr (.inr (.inl (memoryFault_cases hmem)))
  · exact .inr (.inr (.inr (keyFault_cases hkey)))

theorem handlerFault_cause_ne_none {i : Instr} {s : State} {c : FaultCause} {w : Word}
    (h : handlerFault i s = some (c, w)) : c ≠ .none := by
  rcases handlerFault_cases h with ⟨rfl, -⟩ | ⟨rfl, -⟩ | ⟨rfl, -⟩ | ⟨rfl, -⟩ <;> decide

end Sys2Proof.Machine
end

section
/-! PROOFS. Frames over all instructions: the parts, registers, bytes and stack slots that a cycle leaves as they were
(10_state.md R11, R12, R16, R24; 20_memory.md R43). -/

namespace Sys2Proof.Machine

open Sys2Proof

/-! ### What each operation of a handler leaves unchanged -/

theorem UnchangedBut.after_advance {written : List Part} {s t : State} (h : UnchangedBut written s.advance t) :
    UnchangedBut (.pc :: written) s t :=
  ((unchangedBut_advance s).mono (by simp)).trans (h.mono fun _ hp => List.mem_cons_of_mem _ hp)

/-- Two operations one after the other write what each of them writes. -/
theorem UnchangedBut.andThen {w w' : List Part} {s t u : State} (h : UnchangedBut w s t) (h' : UnchangedBut w' t u) :
    UnchangedBut (w ++ w') s u :=
  (h.mono fun _ hp => List.mem_append_left _ hp).trans (h'.mono fun _ hp => List.mem_append_right _ hp)

theorem unchangedBut_setMem (s : State) (m : Memory) : UnchangedBut [.memory] s { s with mem := m } := by
  intro p hp
  cases p with
  | memory => simp at hp
  | _ => simp [Part.Same, State.reg, State.keyDown]

theorem unchangedBut_setMem_setIdx (s : State) (m : Memory) (a : Addr) :
    UnchangedBut [.memory, .index] s { s with mem := m, idx := a } :=
  (unchangedBut_setMem s m).andThen (unchangedBut_setIdx _ a)

theorem unchangedBut_setDraws (s : State) (n : Nat) : UnchangedBut [.draws] s { s with draws := n } := by
  intro p hp
  cases p with
  | draws => simp at hp
  | _ => simp [Part.Same, State.reg, State.keyDown]

theorem unchangedBut_setStack (s : State) (stack : Vector Word 16) (sp : Fin 17) :
    UnchangedBut [.stack] s { s with stack := stack, sp := sp } := by
  intro p hp
  cases p with
  | stack => simp at hp
  | _ => simp [Part.Same, State.reg, State.keyDown]

theorem unchangedBut_loadRegBlock (s : State) (x : RegNum) (a : Nat) : UnchangedBut [.regs] s (s.loadRegBlock x a) := by
  intro p hp
  cases p with
  | regs => simp at hp
  | _ => simp [Part.Same, State.keyDown]

theorem unchangedBut_flagThenResult (s : State) (x : RegNum) (c : Bool) (g : State → Byte) :
    UnchangedBut [.regs] s (s.flagThenResult x c g) :=
  (unchangedBut_setReg s flagReg (flagByte c)).trans (unchangedBut_setReg (s.setFlag c) x _)

theorem unchangedBut_drawInto (s : State) (r : Byte) (x : RegNum) (kk : Byte) :
    UnchangedBut [.regs, .draws] s (s.drawInto r x kk) :=
  (unchangedBut_setReg s x _).andThen (unchangedBut_setDraws _ _)

theorem unchangedBut_drawSprite (s : State) (x y : RegNum) (n : Nat) :
    UnchangedBut [.regs, .screen, .dirty] s (s.drawSprite x y n) :=
  (unchangedBut_setReg s flagReg _).andThen (unchangedBut_setScreen _ _ _)

theorem unchangedBut_advance_skipIf (s : State) (c : Bool) : UnchangedBut [.pc] s (s.advance.skipIf c) := by
  rw [State.advance_skipIf_eq_jumpTo]
  exact unchangedBut_jumpTo s _

/-- A cycle that pushes or pops, then jumps. -/
theorem unchangedBut_setStack_jumpTo (s : State) (stack : Vector Word 16) (sp : Fin 17) (target : Word) :
    UnchangedBut [.pc, .stack] s (State.jumpTo { s with stack := stack, sp := sp } target) :=
  ((unchangedBut_setStack s stack sp).andThen (unchangedBut_jumpTo _ target)).mono (by decide)

/-! ### The frame of a handler -/

/-- The parts that a handler writes besides `pc`: those of the write table, and the timers for the two that set one. -/
def handlerParts : Instr → List Part
  | .ldDTVx _ | .ldSTVx _ => [.timers]
  | i => mayWrite i

theorem unchangedBut_handled (i : Instr) (s : State) : UnchangedBut (.pc :: handlerParts i) s (handled i s) := by
  cases i with
  | cls u => exact (unchangedBut_setScreen s.advance clearScreen true).after_advance
  | ret u =>
    rcases Nat.eq_zero_or_pos s.sp.val with hsp | hsp
    · rw [handled_ret_of_empty u hsp]
      exact UnchangedBut.refl _ s
    · rw [handled_ret_of_pos u hsp]
      exact unchangedBut_setStack_jumpTo s _ _ _
  | call nnn =>
    rcases Nat.lt_or_ge s.sp.val 16 with hsp | hsp
    · rw [handled_call_of_lt nnn hsp]
      exact unchangedBut_setStack_jumpTo s _ _ _
    · rw [handled_call_of_full nnn hsp]
      exact UnchangedBut.refl _ s
  | jp nnn | jpV0 nnn => exact unchangedBut_jumpTo s _
  | seImm x kk | sneImm x kk | seReg x y u | sneReg x y u => exact unchangedBut_advance_skipIf s _
  | skp x | sknp x =>
    rw [handled]
    cases keyIndex (s.reg x) with
    | none => exact UnchangedBut.refl _ s
    | some k => exact unchangedBut_advance_skipIf s _
  | ldVxK x =>
    rw [handled]
    cases s.lowestKey with
    | none => exact UnchangedBut.refl _ s
    | some k => exact (unchangedBut_setReg s.advance x (keyByte k)).after_advance
  | ldImm x _ | addImm x _ | ldReg x _ | orReg x _ | andReg x _ | xorReg x _ | ldVxDT x =>
    exact (unchangedBut_setReg s.advance x _).after_advance
  | addReg x y | subReg x y | shr x y | subnReg x y | shl x y =>
    exact (unchangedBut_flagThenResult s.advance x _ _).after_advance
  | rnd x kk => exact (unchangedBut_drawInto s.advance _ x kk).after_advance
  | drw x y n => exact (unchangedBut_drawSprite s.advance x y n.toNat).after_advance
  | ldDTVx x => exact (unchangedBut_setTimers s.advance (s.reg x) s.st).after_advance
  | ldSTVx x => exact (unchangedBut_setTimers s.advance s.dt (s.reg x)).after_advance
  | ldI _ | addI _ | ldF _ => exact (unchangedBut_setIdx s.advance _).after_advance
  | ldB x => exact (unchangedBut_setMem s.advance _).after_advance
  | stBlock x => exact (unchangedBut_setMem_setIdx s.advance _ _).after_advance
  | ldBlock x =>
    exact ((unchangedBut_loadRegBlock s.advance x s.idx.toNat).andThen (unchangedBut_setIdx _ _)).after_advance

theorem handlerParts_subset (i : Instr) : ∀ p ∈ handlerParts i, p = .timers ∨ p ∈ mayWrite i := by
  intro p hp
  cases i with
  | ldDTVx x | ldSTVx x => exact .inl (List.mem_singleton.1 hp)
  | _ => exact .inr hp

theorem latch_notMem_handlerParts (i : Instr) : Part.latch ∉ .pc :: handlerParts i := by
  cases i <;> simp [handlerParts, mayWrite]

/-- No handler writes the fault latch of a cycle that completes (60_exceptions.md R152). -/
theorem handled_latch (i : Instr) (s : State) : (handled i s).faultCause = s.faultCause ∧
    (handled i s).faultPc = s.faultPc ∧ (handled i s).faultInfo = s.faultInfo :=
  unchangedBut_handled i s .latch (latch_notMem_handlerParts i)

/-- Settles O17: a fault writes the latch, and a completed cycle writes what its handler writes, then the timers. -/
theorem instructionsWriteOnlyTheirParts : Obligations.InstructionsWriteOnlyTheirParts := by
  intro i s t h
  rcases exec_next_cases h with ⟨c, w, -, rfl⟩ | ⟨-, rfl⟩
  · exact (faulted_raise s c w).1.mono (by simp)
  · refine ((unchangedBut_handled i s).andThen (unchangedBut_tick _)).mono fun p hp => ?_
    have := handlerParts_subset i p
    simp only [List.mem_append, List.mem_cons] at hp ⊢
    tauto

/-! ### Registers, bytes and stack slots -/

theorem reg_handled (i : Instr) (s : State) (r : RegNum) (h : mayWriteReg i r = false) :
    (handled i s).reg r = s.reg r := by
  have hkept (hregs : Part.regs ∉ Part.pc :: handlerParts i) : (handled i s).reg r = s.reg r :=
    unchangedBut_handled i s .regs hregs r
  cases i with
  | ldImm x _ | addImm x _ | ldReg x _ | orReg x _ | andReg x _ | xorReg x _ | ldVxDT x =>
    have hr : r ≠ x := by simpa [mayWriteReg] using h
    exact (State.reg_setReg s.advance x r _).trans (if_neg hr)
  | rnd x kk =>
    have hr : r ≠ x := by simpa [mayWriteReg] using h
    exact (State.reg_setReg s.advance x r _).trans (if_neg hr)
  | ldVxK x =>
    have hr : r ≠ x := by simpa [mayWriteReg] using h
    rw [handled]
    cases s.lowestKey with
    | none => rfl
    | some k => exact (State.reg_setReg s.advance x r _).trans (if_neg hr)
  | addReg x _ | subReg x _ | shr x _ | subnReg x _ | shl x _ =>
    have hr : r ≠ x ∧ r ≠ 15 := by simpa [mayWriteReg, flagReg] using h
    exact (State.reg_flagThenResult s.advance x r _ _).trans ((if_neg hr.1).trans (if_neg hr.2))
  | drw x y n =>
    have hr : r ≠ 15 := by simpa [mayWriteReg, flagReg] using h
    exact (State.reg_drawSprite s.advance x y r n.toNat).trans (if_neg hr)
  | ldBlock x =>
    have hr : ¬r ≤ x := by simpa [mayWriteReg] using h
    exact (State.reg_loadRegBlock s.advance x r s.idx.toNat).trans (if_neg hr)
  | _ => exact hkept (by simp [handlerParts, mayWrite])

/-- Settles O18: a fault and the count of the timers write no register, and the handler those of the table. -/
theorem instructionsWriteOnlyTheirRegisters : Obligations.InstructionsWriteOnlyTheirRegisters := by
  intro i s t r h hr
  rcases exec_next_cases h with ⟨c, w, -, rfl⟩ | ⟨-, rfl⟩
  · rfl
  · exact reg_handled i s r hr

theorem read_handled_of_outside (i : Instr) (s : State) {a : Nat}
    (ha : a < s.idx.toNat ∨ s.idx.toNat + storedCount i ≤ a) : (handled i s).mem.read a = s.mem.read a := by
  have hkept (hmem : Part.memory ∉ Part.pc :: handlerParts i) : (handled i s).mem.read a = s.mem.read a :=
    unchangedBut_handled i s .memory hmem a
  cases i with
  | ldB x => exact Memory.read_writeBytes_outside s.mem (bcdDigits (s.reg x)) ha
  | stBlock x => exact Memory.read_writeBytes_outside s.mem _ ((s.length_regBlock x).symm ▸ ha)
  | _ => exact hkept (by simp [handlerParts, mayWrite])

/-- Settles O19: two handlers store bytes, each its number of them from `I` upward. -/
theorem instructionsStoreOnlyTheirBytes : Obligations.InstructionsStoreOnlyTheirBytes := by
  intro i s t a h ha
  rcases exec_next_cases h with ⟨c, w, -, rfl⟩ | ⟨-, rfl⟩
  · rfl
  · exact read_handled_of_outside i s ha

theorem stack_handled (i : Instr) (s : State) (k : Fin 16) (h : k.val ≠ s.sp.val ∨ ∀ nnn, i ≠ .call nnn) :
    (handled i s).stack[k] = s.stack[k] := by
  have hkept (hstack : Part.stack ∉ Part.pc :: handlerParts i) : (handled i s).stack[k] = s.stack[k] :=
    congrArg (fun v : Vector Word 16 => v[k]) (unchangedBut_handled i s .stack hstack).2
  cases i with
  | ret u =>
    rcases Nat.eq_zero_or_pos s.sp.val with hsp | hsp
    · rw [handled_ret_of_empty u hsp]
    · rw [handled_ret_of_pos u hsp]
      rfl
  | call nnn =>
    have hk : s.sp.val ≠ k.val := (h.resolve_right fun hcall => hcall nnn rfl).symm
    rcases Nat.lt_or_ge s.sp.val 16 with hsp | hsp
    · rw [handled_call_of_lt nnn hsp]
      exact Vector.getElem_set_ne hsp k.isLt hk
    · rw [handled_call_of_full nnn hsp]
  | _ => exact hkept (by simp [handlerParts, mayWrite])

/-- Settles O20: a Return leaves the slots, and a Call writes the one at `sp`. -/
theorem stackSlotsKeptButTheCalls : Obligations.StackSlotsKeptButTheCalls := by
  intro i s t k h hk
  rcases exec_next_cases h with ⟨c, w, -, rfl⟩ | ⟨-, rfl⟩
  · rfl
  · exact stack_handled i s k hk

end Sys2Proof.Machine
end

section
/-! PROOFS. The cycle as a whole: which fault it raises, what a halted core does, how the timers count
(60_exceptions.md R150 to R163). -/

namespace Sys2Proof.Machine

open Sys2Proof Sys2Proof.Laws

/-! ### Which instruction runs -/

theorem decodeWord_of_decodeBytes {hi lo : Byte} {i : Instr} (h : decodeBytes [hi, lo] = .instr i []) :
    decodeWord (wordOfBytes hi lo) = some i := by
  rw [decodeBytes] at h
  split at h
  · rename_i j hj
    cases h
    exact hj
  · cases h

/-- Settles O9: the two bytes at `pc` are the bytes of the fetched word. -/
theorem stepRunsDecodedInstruction : Obligations.StepRunsDecodedInstruction :=
  fun _ _ hrun hpc hbytes => step_of_fetches ⟨hrun, hpc, decodeWord_of_decodeBytes hbytes⟩

theorem Memory.readWord_writeBytes_bytesOfWord {m : Memory} (h : m.wf = true) {a : Nat}
    (ha : a + 2 ≤ Config.memSize) (w : Word) : (m.writeBytes a (bytesOfWord w)).readWord a = w := by
  have hhi : (m.writeBytes a (bytesOfWord w)).read a = w.extractLsb' 8 8 :=
    Memory.read_writeBytes h (bytesOfWord w) ha 0 Nat.two_pos
  have hlo : (m.writeBytes a (bytesOfWord w)).read (a + 1) = w.extractLsb' 0 8 :=
    Memory.read_writeBytes h (bytesOfWord w) ha 1 Nat.one_lt_two
  rw [Memory.readWord, hhi, hlo, wordOfBytes_bytesOfWord]

/-- What `fetchable` makes sure of, from any state (log 14). -/
theorem State.fetchable_spec (s : State) :
    s.fetchable.faultCause = .none ∧ s.fetchable.pc.toNat ≤ 0xFFE ∧ s.fetchable.mem = s.mem := by
  unfold State.fetchable State.halted State.pcInRange lastFetchPc
  by_cases hc : s.faultCause = .none <;> by_cases hp : s.pc.toNat ≤ 0xFFE <;> simp [hc, hp, Config.programBase]

theorem fetchWord_storeFetchWord {s : State} (hmem : s.mem.wf = true) (w : Word) :
    (s.storeFetchWord w).fetchWord = w := by
  obtain ⟨-, hpc, hsame⟩ := s.fetchable_spec
  have hroom : s.fetchable.pc.toNat + 2 ≤ Config.memSize := Nat.add_le_of_le_sub (by decide) hpc
  exact Memory.readWord_writeBytes_bytesOfWord (hsame ▸ hmem) hroom w

theorem fetches_withFetchWord {s : State} (hmem : s.mem.wf = true) (i : Instr) :
    Fetches (s.withFetchWord 16 (encode i).toNat) i := by
  obtain ⟨hrun, hpc, -⟩ := s.fetchable_spec
  rw [State.withFetchWord, tableWord_toNat]
  exact ⟨hrun, hpc, (fetchWord_storeFetchWord hmem (encode i)).symm ▸ decodeWord_encode i⟩

/-- Settles O10: the placed word is fetched again, and it decodes to the instruction. -/
theorem placedWordRunsNext : Obligations.PlacedWordRunsNext :=
  fun i _ hmem => step_of_fetches (fetches_withFetchWord hmem i)

/-! ### The fault of a cycle -/

theorem cycleFault_of_pc {s : State} (hpc : 0xFFE < s.pc.toNat) : cycleFault s = some (.pcOutOfRange, s.pc) :=
  if_pos hpc

theorem cycleFault_of_unrecognized {s : State} (hpc : s.pc.toNat ≤ 0xFFE) (h : decodeWord s.fetchWord = none) :
    cycleFault s = some (.unrecognizedOpcode, s.fetchWord) := by
  rw [cycleFault, if_neg (Nat.not_lt.2 hpc), h]

/-- The fetched word is the word of its instruction, so the two ways to name it in the latch agree (log 9). -/
theorem cycleFault_of_fetches {s : State} {i : Instr} (h : Fetches s i) : cycleFault s = handlerFault i s := by
  rw [cycleFault, if_neg (Nat.not_lt.2 h.inRange), h.decodes, ← encodeOfDecode s.fetchWord i h.decodes]
  rfl

/-- Everything a cycle can do: a halted core stays, and a running one raises the fault of the cycle or completes what
its instruction does (60_exceptions.md R150, R154). -/
theorem cycle_cases (s : State) :
    (s.faultCause ≠ .none ∧ step s = .next s) ∨
    (∃ c w, s.faultCause = .none ∧ cycleFault s = some (c, w) ∧ step s = .next (s.raise c w)) ∨
    ∃ i, Fetches s i ∧ handlerFault i s = none ∧ cycleFault s = none ∧ step s = .next (handled i s).tick := by
  rcases step_cases s with ⟨hc, hs⟩ | ⟨hc, hpc, hs⟩ | ⟨hc, hpc, hd, hs⟩ | ⟨i, hc, hpc, hd, hs⟩
  · exact .inl ⟨hc, hs⟩
  · exact .inr (.inl ⟨_, _, hc, cycleFault_of_pc hpc, hs⟩)
  · exact .inr (.inl ⟨_, _, hc, cycleFault_of_unrecognized hpc hd, hs⟩)
  · have hfetch : Fetches s i := ⟨hc, hpc, hd⟩
    have hcycle := cycleFault_of_fetches hfetch
    rcases exec_cases i s with ⟨c, w, hfault, he⟩ | ⟨hnone, he⟩
    · exact .inr (.inl ⟨c, w, hc, hcycle.trans hfault, hs.trans he⟩)
    · exact .inr (.inr ⟨i, hfetch, hnone, hcycle.trans hnone, hs.trans he⟩)

/-- Settles O11: each of the three things a cycle can do gives a state. -/
theorem everyStateHasNextState : Obligations.EveryStateHasNextState := by
  intro s
  rcases cycle_cases s with ⟨-, hs⟩ | ⟨_, _, -, -, hs⟩ | ⟨_, -, -, -, hs⟩ <;> exact ⟨_, hs⟩

/-- Settles O12: a fault that is raised writes the latch alone, and no handler that completes writes it. -/
theorem cycleFaultsExactlyWhen : Obligations.CycleFaultsExactlyWhen := by
  intro s hrun
  rcases cycle_cases s with ⟨hc, -⟩ | ⟨c, w, -, hfault, hs⟩ | ⟨i, -, -, hnone, hs⟩
  · exact absurd hrun hc
  · refine ⟨fun c' w' h => ?_, fun h => ?_⟩
    · cases hfault.symm.trans h
      exact ⟨_, hs, faulted_raise s c w⟩
    · cases hfault.symm.trans h
  · refine ⟨fun c' w' h => ?_, fun _ => ⟨_, hs, (handled_latch i s).1.trans hrun⟩⟩
    cases hnone.symm.trans h

/-- Settles O13: of a running core only the cycle that raises a fault ends with one. -/
theorem faultsArePrecise : Obligations.FaultsArePrecise := by
  intro s t h hrun hfault
  rcases cycle_cases s with ⟨hc, -⟩ | ⟨c, w, -, -, hs⟩ | ⟨i, -, -, -, hs⟩
  · exact absurd hrun hc
  · cases hs.symm.trans h
    exact ⟨(faulted_raise s c w).1, rfl⟩
  · cases hs.symm.trans h
    exact absurd ((handled_latch i s).1.trans hrun) hfault

theorem step_of_halted {s : State} (h : s.faultCause ≠ .none) : step s = .next s := by
  rcases cycle_cases s with ⟨-, hs⟩ | ⟨_, _, hrun, -, -⟩ | ⟨_, hfetch, -, -, -⟩
  · exact hs
  · exact absurd hrun h
  · exact absurd hfetch.running h

/-- Settles O14, by induction on the number of cycles. -/
theorem haltedCoreNeverChanges : Obligations.HaltedCoreNeverChanges := by
  intro n s h
  induction n with
  | zero => rfl
  | succ n ih => exact (run_succ n (step_of_halted h)).trans ih

/-- Settles O16: the word at 0x200 of a memory without a program is 0, and no handler takes it. -/
theorem emptyMemoryFaultsAtOnce : Obligations.EmptyMemoryFaultsAtOnce := by
  have hfault : cycleFault State.reset = some (.unrecognizedOpcode, 0x0000) := by decide
  exact (cycleFaultsExactlyWhen State.reset rfl).1 _ _ hfault

/-! ### The timers -/

/-- The timers that a handler leaves to the count: those before the cycle, or `V[x]` where the instruction sets one. -/
theorem handled_timers (i : Instr) (s : State) :
    (handled i s).dt = (match i with | .ldDTVx x => s.reg x | _ => s.dt) ∧
    (handled i s).st = (match i with | .ldSTVx x => s.reg x | _ => s.st) := by
  have hkept (h : Part.timers ∉ Part.pc :: handlerParts i) : (handled i s).dt = s.dt ∧ (handled i s).st = s.st :=
    unchangedBut_handled i s .timers h
  cases i with
  | ldDTVx x | ldSTVx x => exact ⟨rfl, rfl⟩
  | _ => exact hkept (by simp [handlerParts, mayWrite])

/-- Settles O15: the count is made on the timers that the handler left. -/
theorem timersCountInEveryCompletedCycle : Obligations.TimersCountInEveryCompletedCycle := by
  intro s t i hfetch h hnofault
  rcases exec_next_cases ((step_of_fetches hfetch).symm.trans h) with ⟨c, w, hfault, rfl⟩ | ⟨-, rfl⟩
  · exact absurd hnofault (handlerFault_cause_ne_none hfault)
  · obtain ⟨hdt, hst⟩ := handled_timers i s
    rw [State.tick_dt, State.tick_st, countDown_toNat, countDown_toNat, hdt, hst]
    cases i <;> exact ⟨rfl, rfl⟩

/-! ### Ignored bits -/

/-- Settles O7: no handler takes the ignored bits, and of a Return they reach the latch only. -/
theorem ignoredBitsHaveNoEffect : Obligations.IgnoredBitsHaveNoEffect := by
  intro u u' x y y' s
  have hret (hsp : s.sp ≠ 0) : exec (.ret u) s = exec (.ret u') s := by
    have hlive (v : Nibble) : handlerFault (.ret v) s = none := (handlerFault_ret v s).trans (if_neg hsp)
    rw [exec_of_noFault (hlive u), exec_of_noFault (hlive u')]
    rfl
  exact ⟨rfl, hret, rfl, rfl, rfl, rfl⟩

/-- Settles O6: nine of the words are those of their instructions, and three select no handler. -/
theorem spotWordsDecode : Obligations.SpotWordsDecode :=
  ⟨decodeWord_encode (.cls 0), decodeWord_encode (.ret 0), decodeWord_encode (.jp 0xABC),
    decodeWord_encode (.seImm 10 0x42), decodeWord_encode (.addReg 10 11), decodeWord_encode (.drw 1 2 5),
    decodeWord_encode (.skp 1), decodeWord_encode (.ldBlock 10), decodeWord_encode (.jpV0 0x123),
    by decide, by decide, by decide⟩

end Sys2Proof.Machine
end

section
/-! PROOFS. Reset and the host's operations (10_state.md R29, 60_exceptions.md R170 to R179). -/

namespace Sys2Proof.Machine

open Sys2Proof

/-! ### Reset -/

/-- The glyph of digit `d` lies at 5 * d (10_state.md R30). -/
theorem resetByte_glyph {d row : Nat} (hd : d < 16) (hrow : row < 5) :
    resetByte (5 * d + row) = Config.glyphByte d row := by
  have htable : 5 * d + row < Config.glyphBytes := by
    simp only [Config.glyphBytes]
    omega
  rw [resetByte, if_pos htable, show (5 * d + row) / 5 = d by omega, show (5 * d + row) % 5 = row by omega]

theorem resetByte_above_glyphs {a : Nat} (ha : 0x050 ≤ a) : resetByte a = 0 := if_neg (Nat.not_lt.2 ha)

/-- Settles O48: the registers, slots, cells and keys are all alike, and unlisted bytes read as reset bytes. -/
theorem resetValues : Obligations.ResetValues :=
  ⟨by decide, rfl, rfl, by decide, rfl, rfl, rfl, fun k _ => cellAt_clearScreen k, rfl, by decide,
    fun _ _ hd hrow => resetByte_glyph hd hrow, fun _ ha => resetByte_above_glyphs ha, rfl, rfl, rfl⟩

/-- Settles O49: no cell is listed, every slot is 0, none is live, and the latch is clear. -/
theorem resetMeetsInvariant : Obligations.ResetMeetsInvariant where
  mem := rfl
  pc := by decide
  stack := by
    unfold StackBounded
    decide
  latch := ⟨rfl, rfl⟩

/-- Settles O57: `hostInit` changes one field of the reset state, the model's own counter. -/
theorem initializeResetsEverything : Obligations.InitializeResetsEverything :=
  fun s => ⟨unchangedBut_setDraws State.reset s.draws, rfl⟩

/-! ### Loading a program -/

theorem State.loadProgram_of_le {image : List Byte} (h : image.length ≤ Config.maxImage) (s : State) :
    s.loadProgram image = some { s with mem := s.mem.writeBytes Config.programBase image } := if_pos h

theorem State.loadProgram_of_gt {image : List Byte} (h : Config.maxImage < image.length) (s : State) :
    s.loadProgram image = none := if_neg (Nat.not_le.2 h)

/-- A load that is not rejected stores bytes, and one that is changes nothing. -/
theorem apply_loadProgram (image : List Byte) (s : State) :
    (HostOp.loadProgram image).apply s = s ∨
    (HostOp.loadProgram image).apply s = { s with mem := s.mem.writeBytes Config.programBase image } := by
  by_cases h : image.length ≤ Config.maxImage
  · exact .inr (congrArg (Option.getD · s) (s.loadProgram_of_le h))
  · exact .inl (congrArg (Option.getD · s) (s.loadProgram_of_gt (Nat.not_le.1 h)))

/-- Settles O58: 3584 bytes from 0x200 end at the last address, so every byte of an image that fits is stored. -/
theorem loadProgramStoresOrRejects : Obligations.LoadProgramStoresOrRejects := by
  intro image s
  constructor
  · intro hmem hlen
    have hroom : Config.programBase + image.length ≤ Config.memSize := by
      simp only [Config.programBase, Config.memSize]
      omega
    exact ⟨_, s.loadProgram_of_le hlen, unchangedBut_setMem s _,
      fun j hj => Memory.read_writeBytes hmem image hroom j hj,
      fun a ha => Memory.read_writeBytes_outside s.mem image ha⟩
  · intro hlen
    have hreject := s.loadProgram_of_gt hlen
    exact ⟨hreject, congrArg (Option.getD · s) hreject⟩

/-! ### Keys -/

theorem keyOfInt_val (k : KeyNum) : keyOfInt (k.val : Int) = some k := by
  have hrange : 0 ≤ (k.val : Int) ∧ (k.val : Int) ≤ 15 := by omega
  simp [keyOfInt, hrange]

theorem keyOfInt_outside {i : Int} (h : i < 0 ∨ 15 < i) : keyOfInt i = none := dif_neg (by omega)

theorem State.keyDown_setKey (s : State) (k j : KeyNum) (down : Bool) :
    (s.setKey (k.val : Int) down).keyDown j = if j = k then down else s.keyDown j := by
  rw [State.setKey, keyOfInt_val]
  simp only [State.keyDown, Fin.getElem_fin, Vector.getElem_set, Fin.ext_iff, eq_comm]

theorem State.setKey_outside (s : State) {i : Int} (h : i < 0 ∨ 15 < i) (down : Bool) : s.setKey i down = s := by
  rw [State.setKey, keyOfInt_outside h]

/-- Settles O59: press and release write one level, `true` and `false`. -/
theorem hostKeysSetOneLevel : Obligations.HostKeysSetOneLevel := by
  intro i s
  refine ⟨?_, fun hi => ⟨s.setKey_outside hi true, s.setKey_outside hi false⟩⟩
  rintro k rfl j
  exact ⟨s.keyDown_setKey k j true, s.keyDown_setKey k j false⟩

/-! ### The frame of the host -/

theorem unchangedBut_setKey (s : State) (i : Int) (down : Bool) : UnchangedBut [.keys] s (s.setKey i down) := by
  intro p hp
  unfold State.setKey
  cases keyOfInt i with
  | none => exact UnchangedBut.refl [.keys] s p hp
  | some k =>
    cases p with
    | keys => simp at hp
    | _ => simp [Part.Same, State.reg]

theorem unchangedBut_clearDirty (s : State) : UnchangedBut [.dirty] s s.clearDirty := by
  intro p hp
  cases p with
  | dirty => simp at hp
  | _ => simp [Part.Same, State.clearDirty, State.reg, State.keyDown]

/-- `hostInit` may write every part but the model's own counter. -/
theorem unchangedBut_hostInit (s : State) : UnchangedBut (hostMayWrite .hostInit) s s.hostInit := by
  intro p hp
  cases p with
  | draws => rfl
  | _ => simp [hostMayWrite] at hp

/-- Settles O60: each operation of the host has its frame. -/
theorem hostOperationsWriteOnlyTheirParts : Obligations.HostOperationsWriteOnlyTheirParts := by
  intro op s
  cases op with
  | hostInit => exact unchangedBut_hostInit s
  | loadProgram image =>
    rcases apply_loadProgram image s with h | h <;> rw [h]
    · exact UnchangedBut.refl _ s
    · exact unchangedBut_setMem s _
  | pressKey i => exact unchangedBut_setKey s i true
  | releaseKey i => exact unchangedBut_setKey s i false
  | clearDirty => exact unchangedBut_clearDirty s

end Sys2Proof.Machine
end

section
/-! PROOFS. The invariant: every step and every operation of the host keeps it (10_state.md section 9; logs 6, 17). -/

namespace Sys2Proof.Machine

open Sys2Proof

/-! ### Memory stays canonical -/

/-- What a handler does to memory as data: nothing, or a sequence of stores. -/
theorem handled_mem_cases (i : Instr) (s : State) :
    (handled i s).mem = s.mem ∨ ∃ a bs, (handled i s).mem = s.mem.writeBytes a bs := by
  cases i with
  | ldB x | stBlock x => exact .inr ⟨_, _, rfl⟩
  | ret u =>
    rcases Nat.eq_zero_or_pos s.sp.val with hsp | hsp
    · rw [handled_ret_of_empty u hsp]
      exact .inl rfl
    · rw [handled_ret_of_pos u hsp]
      exact .inl rfl
  | call nnn =>
    rcases Nat.lt_or_ge s.sp.val 16 with hsp | hsp
    · rw [handled_call_of_lt nnn hsp]
      exact .inl rfl
    · rw [handled_call_of_full nnn hsp]
      exact .inl rfl
  | seImm x kk | sneImm x kk | seReg x y u | sneReg x y u => exact .inl (State.skipIf_mem _ _)
  | skp x | sknp x =>
    rw [handled]
    cases keyIndex (s.reg x) with
    | none => exact .inl rfl
    | some k => exact .inl (State.skipIf_mem _ _)
  | ldVxK x =>
    rw [handled]
    cases s.lowestKey <;> exact .inl rfl
  | _ => exact .inl rfl

theorem wf_mem_handled (i : Instr) {s : State} (h : s.mem.wf = true) : (handled i s).mem.wf = true := by
  rcases handled_mem_cases i s with hm | ⟨a, bs, hm⟩ <;> rw [hm]
  · exact h
  · exact Memory.wf_writeBytes h a bs

/-- Settles O51: a cycle stores bytes or leaves memory, and a store keeps the canonical form. -/
theorem stepKeepsMemoryCanonical : Obligations.StepKeepsMemoryCanonical := by
  intro s t hmem h
  rcases cycle_cases s with ⟨-, hs⟩ | ⟨c, w, -, -, hs⟩ | ⟨i, -, -, -, hs⟩ <;> cases hs.symm.trans h
  · exact hmem
  · exact hmem
  · exact wf_mem_handled i hmem

/-! ### The program counter stays in its bound -/

theorem toNat_add_two_le {p : Word} (h : p.toNat ≤ 0xFFE) : (p + 2).toNat = p.toNat + 2 := by bv_omega

theorem pc_advance_skipIf_le {s : State} (h : s.pc.toNat ≤ 0xFFE) (c : Bool) :
    (s.advance.skipIf c).pc.toNat ≤ 0x10FE := by
  rw [State.advance_skipIf_eq_jumpTo, State.jumpTo_pc]
  split <;> bv_omega

/-- From an address that can be fetched from, no handler goes past 0x10FE, the highest target of Jump relative to reg0
(40_control.md R88). -/
theorem pc_handled_le (i : Instr) {s : State} (h : s.pc.toNat ≤ 0xFFE) (hstack : StackBounded s) :
    (handled i s).pc.toNat ≤ 0x10FE := by
  have hstay : s.pc.toNat ≤ 0x10FE := h.trans (by decide)
  have habs (nnn : Addr) : (absolute nnn).toNat ≤ 0x10FE := by
    rw [absolute_toNat]
    omega
  cases i with
  | jp nnn => exact habs nnn
  | jpV0 nnn =>
    have hsum := regRelative_toNat (s.reg 0) nnn
    change (regRelative (s.reg 0) nnn).toNat ≤ 0x10FE
    omega
  | call nnn =>
    rcases Nat.lt_or_ge s.sp.val 16 with hsp | hsp
    · rw [handled_call_of_lt nnn hsp]
      exact habs nnn
    · rw [handled_call_of_full nnn hsp]
      exact hstay
  | ret u =>
    rcases Nat.eq_zero_or_pos s.sp.val with hsp | hsp
    · rw [handled_ret_of_empty u hsp]
      exact hstay
    · rw [handled_ret_of_pos u hsp]
      exact (hstack ⟨s.sp.val - 1, by omega⟩).1.trans (by decide)
  | seImm x kk | sneImm x kk | seReg x y u | sneReg x y u => exact pc_advance_skipIf_le h _
  | skp x | sknp x =>
    rw [handled]
    cases keyIndex (s.reg x) with
    | none => exact hstay
    | some k => exact pc_advance_skipIf_le h _
  | ldVxK x =>
    rw [handled]
    cases s.lowestKey with
    | none => exact hstay
    | some k => exact (toNat_add_two_le h).trans_le (by omega)
  | _ => exact (toNat_add_two_le h).trans_le (by omega)

/-! ### The return addresses stay in their bounds -/

theorem StackBounded.of_same {s t : State} (h : StackBounded s) (hsame : Part.stack.Same s t) : StackBounded t := by
  obtain ⟨hsp, hstack⟩ := hsame
  intro k
  rw [hstack, hsp]
  exact h k

/-- The address after a Call is at least 2 and at most 0x1000 (40_control.md R83). -/
theorem stackBounded_handled_call (nnn : Addr) {s : State} (hpc : s.pc.toNat ≤ 0xFFE) (h : StackBounded s) :
    StackBounded (handled (.call nnn) s) := by
  rcases Nat.lt_or_ge s.sp.val 16 with hsp | hsp
  · rw [handled_call_of_lt nnn hsp]
    intro k
    have hk := h k
    have hpushed := toNat_add_two_le hpc
    simp only [State.jumpTo_stack, State.jumpTo_sp, Fin.getElem_fin, Vector.getElem_set] at hk ⊢
    split <;> omega
  · rw [handled_call_of_full nnn hsp]
    exact h

/-- A Return makes one slot dead, which asks less of it. -/
theorem stackBounded_handled_ret (u : Nibble) {s : State} (h : StackBounded s) : StackBounded (handled (.ret u) s) := by
  rcases Nat.eq_zero_or_pos s.sp.val with hsp | hsp
  · rw [handled_ret_of_empty u hsp]
    exact h
  · rw [handled_ret_of_pos u hsp]
    exact fun k => ⟨(h k).1, fun hk => (h k).2 (Nat.lt_of_lt_of_le hk (Nat.sub_le _ _))⟩

theorem stackBounded_handled (i : Instr) {s : State} (hpc : s.pc.toNat ≤ 0xFFE) (h : StackBounded s) :
    StackBounded (handled i s) := by
  cases i with
  | call nnn => exact stackBounded_handled_call nnn hpc h
  | ret u => exact stackBounded_handled_ret u h
  | _ => exact h.of_same (unchangedBut_handled _ s .stack (by simp [handlerParts, mayWrite]))

/-! ### The latch tells the truth -/

theorem latchTrue_of_running {s : State} (h : s.faultCause = .none) :
    LatchTrue s ↔ s.faultPc = 0 ∧ s.faultInfo = 0 := by
  rw [LatchTrue, h]

theorem cycleFault_eq_some {s : State} {c : FaultCause} {w : Word} (h : cycleFault s = some (c, w)) :
    (c = .pcOutOfRange ∧ w = s.pc ∧ 0xFFE < s.pc.toNat) ∨
    (s.pc.toNat ≤ 0xFFE ∧ c = .unrecognizedOpcode ∧ decodeWord w = none) ∨
    (s.pc.toNat ≤ 0xFFE ∧ ∃ i, handlerFault i s = some (c, w)) := by
  rcases Nat.lt_or_ge 0xFFE s.pc.toNat with hpc | hpc
  · cases (cycleFault_of_pc hpc).symm.trans h
    exact .inl ⟨rfl, rfl, hpc⟩
  · cases hd : decodeWord s.fetchWord with
    | none =>
      cases (cycleFault_of_unrecognized hpc hd).symm.trans h
      exact .inr (.inl ⟨hpc, rfl, hd⟩)
    | some i =>
      rw [cycleFault, if_neg (Nat.not_lt.2 hpc), hd, ← Laws.encodeOfDecode s.fetchWord i hd] at h
      exact .inr (.inr ⟨hpc, i, h⟩)

theorem latchTrue_raise {s : State} {c : FaultCause} {w : Word} (h : cycleFault s = some (c, w)) :
    LatchTrue (s.raise c w) := by
  rcases cycleFault_eq_some h with ⟨rfl, rfl, hpc⟩ | ⟨hpc, rfl, hd⟩ | ⟨hpc, i, hfault⟩
  · exact ⟨rfl, rfl, hpc⟩
  · exact ⟨rfl, hpc, hd⟩
  · rcases handlerFault_cases hfault with ⟨rfl, hsp, hw⟩ | ⟨rfl, hsp, hw⟩ | ⟨rfl, hw⟩ | ⟨rfl, hw⟩
    · exact ⟨rfl, hpc, hsp, hw⟩
    · exact ⟨rfl, hpc, hsp, hw⟩
    · exact ⟨rfl, hpc, hw⟩
    · exact ⟨rfl, hpc, hw⟩

/-! ### The invariant -/

theorem inv_raise {s : State} (h : s.Inv) {c : FaultCause} {w : Word} (hfault : cycleFault s = some (c, w)) :
    (s.raise c w).Inv := ⟨h.mem, h.pc, h.stack, latchTrue_raise hfault⟩

theorem inv_handled_tick {s : State} (h : s.Inv) {i : Instr} (hfetch : Fetches s i) : (handled i s).tick.Inv where
  mem := wf_mem_handled i h.mem
  pc := pc_handled_le i hfetch.inRange h.stack
  stack := stackBounded_handled i hfetch.inRange h.stack
  latch := by
    obtain ⟨hcause, hpc, hinfo⟩ := handled_latch i s
    obtain ⟨hpc0, hinfo0⟩ := (latchTrue_of_running hfetch.running).1 h.latch
    exact (latchTrue_of_running (hcause.trans hfetch.running)).2 ⟨hpc.trans hpc0, hinfo.trans hinfo0⟩

/-- Settles O50: the three things a cycle can do keep the invariant, a fault by the truth of what it records. -/
theorem stepKeepsInvariant : Obligations.StepKeepsInvariant := by
  intro s t hinv h
  rcases cycle_cases s with ⟨-, hs⟩ | ⟨c, w, -, hfault, hs⟩ | ⟨i, hfetch, -, -, hs⟩ <;> cases hs.symm.trans h
  · exact hinv
  · exact inv_raise hinv hfault
  · exact inv_handled_tick hinv hfetch

theorem inv_setKey {s : State} (h : s.Inv) (i : Int) (down : Bool) : (s.setKey i down).Inv := by
  unfold State.setKey
  cases keyOfInt i with
  | none => exact h
  | some k => exact ⟨h.mem, h.pc, h.stack, h.latch⟩

/-- Settles O52: of the host's operations only a load writes a part that the invariant speaks of, and it stores bytes;
`hostInit` gives the reset state. -/
theorem hostOperationsKeepInvariant : Obligations.HostOperationsKeepInvariant := by
  intro op s h
  cases op with
  | hostInit =>
    have hreset := resetMeetsInvariant
    exact ⟨hreset.mem, hreset.pc, hreset.stack, hreset.latch⟩
  | loadProgram image =>
    rcases apply_loadProgram image s with happly | happly <;> rw [happly]
    · exact h
    · exact ⟨Memory.wf_writeBytes h.mem _ image, h.pc, h.stack, h.latch⟩
  | pressKey i => exact inv_setKey h i true
  | releaseKey i => exact inv_setKey h i false
  | clearDirty => exact ⟨h.mem, h.pc, h.stack, h.latch⟩

/-- One element of an execution gives a state, and the invariant holds of it. -/
theorem event_run_keeps_inv (e : Event) {s : State} (h : s.Inv) : ∃ t, e.run s = .next t ∧ t.Inv := by
  cases e with
  | cycle =>
    obtain ⟨t, ht⟩ := everyStateHasNextState s
    exact ⟨t, ht, stepKeepsInvariant s t h ht⟩
  | host op => exact ⟨op.apply s, rfl, hostOperationsKeepInvariant op s h⟩

theorem runEvents_cons {e : Event} {s t : State} (es : List Event) (h : e.run s = .next t) :
    runEvents (e :: es) s = runEvents es t := by
  rw [runEvents, h]

/-- Settles O53, by induction on the elements of the execution. -/
theorem executionsKeepInvariant : Obligations.ExecutionsKeepInvariant := by
  intro es
  induction es with
  | nil => exact fun s h => ⟨s, rfl, h⟩
  | cons e es ih =>
    intro s h
    obtain ⟨t, ht, hinv⟩ := event_run_keeps_inv e h
    obtain ⟨u, hu, huinv⟩ := ih t hinv
    exact ⟨u, (runEvents_cons es ht).trans hu, huinv⟩

end Sys2Proof.Machine
end

section
/-! PROOFS. What no instruction observes: the dead stack slots, `dirty` and the sound timer (10_state.md R16, R19,
R21). -/

namespace Sys2Proof.Machine

open Sys2Proof

/-! ### The cycle of a running core -/

theorem step_of_cycleFault {s : State} (hrun : s.faultCause = .none) {c : FaultCause} {w : Word}
    (h : cycleFault s = some (c, w)) : step s = .next (s.raise c w) := by
  rcases cycle_cases s with ⟨hc, -⟩ | ⟨c', w', -, hfault, hs⟩ | ⟨_, -, -, hnone, -⟩
  · exact absurd hrun hc
  · cases hfault.symm.trans h
    exact hs
  · cases hnone.symm.trans h

theorem step_of_noFault {s : State} {i : Instr} (hfetch : Fetches s i) (h : handlerFault i s = none) :
    step s = .next (handled i s).tick := (step_of_fetches hfetch).trans (exec_of_noFault h)

/-! ### Dead stack slots -/

theorem SameButDeadSlots.eq_setStack {s s' : State} (h : SameButDeadSlots s s') : s' = { s with stack := s'.stack } :=
  calc s' = { ({ s' with stack := s.stack } : State) with stack := s'.stack } := rfl
    _ = { s with stack := s'.stack } := by rw [h.others]

theorem SameButDeadSlots.tick {s s' : State} (h : SameButDeadSlots s s') : SameButDeadSlots s.tick s'.tick :=
  ⟨congrArg State.tick h.others, h.live⟩

theorem SameButDeadSlots.raise {s s' : State} (h : SameButDeadSlots s s') (c : FaultCause) (w : Word) :
    SameButDeadSlots (s.raise c w) (s'.raise c w) :=
  ⟨congrArg (State.raise · c w) h.others, h.live⟩

theorem advance_skipIf_setStack (s : State) (stack : Vector Word 16) (c : Bool) :
    State.skipIf { s.advance with stack := stack } c = { s.advance.skipIf c with stack := stack } := by
  cases c <;> rfl

/-- A handler that has no business with the stack carries it along. -/
theorem handled_setStack (i : Instr) (s : State) (stack : Vector Word 16) (hcall : ∀ nnn, i ≠ .call nnn)
    (hret : ∀ u, i ≠ .ret u) : handled i { s with stack := stack } = { handled i s with stack := stack } := by
  cases i with
  | call nnn => exact absurd rfl (hcall nnn)
  | ret u => exact absurd rfl (hret u)
  | seImm x kk | sneImm x kk | seReg x y u | sneReg x y u => exact advance_skipIf_setStack s stack _
  | skp x | sknp x =>
    change (keyIndex (s.reg x)).elim _ _ = _
    rw [handled]
    cases keyIndex (s.reg x) with
    | none => rfl
    | some k => exact advance_skipIf_setStack s stack _
  | ldVxK x =>
    change s.lowestKey.elim _ _ = _
    rw [handled]
    cases s.lowestKey <;> rfl
  | _ => rfl

theorem sameButDeadSlots_handled (i : Instr) (s : State) {stack : Vector Word 16}
    (h : ∀ k : Fin 16, k.val < s.sp.val → stack[k] = s.stack[k]) :
    SameButDeadSlots (handled i s) (handled i { s with stack := stack }) := by
  have hcarried (hcall : ∀ nnn, i ≠ .call nnn) (hret : ∀ u, i ≠ .ret u)
      (hparts : Part.stack ∉ Part.pc :: handlerParts i) :
      SameButDeadSlots (handled i s) (handled i { s with stack := stack }) := by
    obtain ⟨hsp, hstack⟩ := unchangedBut_handled i s .stack hparts
    rw [handled_setStack i s stack hcall hret]
    refine ⟨rfl, fun k hk => ?_⟩
    rw [hsp] at hk
    rw [hstack]
    exact h k hk
  cases i with
  | call nnn =>
    rcases Nat.lt_or_ge s.sp.val 16 with hsp | hsp
    · rw [handled_call_of_lt nnn hsp, handled_call_of_lt nnn (s := { s with stack := stack }) hsp]
      refine ⟨rfl, fun k hk => ?_⟩
      have hk' := h k
      simp only [State.jumpTo_stack, State.jumpTo_sp, Fin.getElem_fin, Vector.getElem_set] at hk hk' ⊢
      split
      · rfl
      · exact hk' (by omega)
    · rw [handled_call_of_full nnn hsp, handled_call_of_full nnn (s := { s with stack := stack }) hsp]
      exact ⟨rfl, h⟩
  | ret u =>
    rcases Nat.eq_zero_or_pos s.sp.val with hsp | hsp
    · rw [handled_ret_of_empty u hsp, handled_ret_of_empty u (s := { s with stack := stack }) hsp]
      exact ⟨rfl, h⟩
    · have htarget : stack[s.sp.val - 1] = s.stack[s.sp.val - 1] :=
        h ⟨s.sp.val - 1, by omega⟩ (Nat.sub_lt hsp Nat.one_pos)
      rw [handled_ret_of_pos u hsp, handled_ret_of_pos u (s := { s with stack := stack }) hsp]
      refine ⟨?_, fun k hk => h k (Nat.lt_of_lt_of_le hk (Nat.sub_le _ _))⟩
      simp only [State.jumpTo, htarget]
  | _ =>
    exact hcarried (by intro _ he; cases he) (by intro _ he; cases he) (by simp [handlerParts, mayWrite])

/-- Settles O54: the fetch and the tests for faults do not look at the slots, a Return looks at a live one, and no
handler makes a dead slot live without writing it. -/
theorem deadStackSlotsAreNotObserved : Obligations.DeadStackSlotsAreNotObserved := by
  intro s s' t h hstep
  have hlive := h.live
  have hdead := h
  rw [h.eq_setStack] at hdead ⊢
  rcases cycle_cases s with ⟨hc, hs⟩ | ⟨c, w, hrun, hfault, hs⟩ | ⟨i, hfetch, hnone, -, hs⟩ <;>
    cases hs.symm.trans hstep
  · exact ⟨_, step_of_halted hc, hdead⟩
  · exact ⟨_, step_of_cycleFault (s := { s with stack := s'.stack }) hrun hfault, hdead.raise c w⟩
  · exact ⟨_, step_of_noFault ⟨hfetch.running, hfetch.inRange, hfetch.decodes⟩ hnone,
      (sameButDeadSlots_handled i s hlive).tick⟩

/-! ### `dirty` and the sound timer -/

/-- Two states that agree except in `dirty` and the sound timer. -/
def SameButDirtyAndSound (t u : State) : Prop := { u with dirty := t.dirty, st := t.st } = t

theorem SameButDirtyAndSound.tick {t u : State} (h : SameButDirtyAndSound t u) : SameButDirtyAndSound t.tick u.tick :=
  congrArg State.tick h

theorem sameButDirtyAndSound_skipIf (s : State) (d : Bool) (v : Byte) (c : Bool) :
    SameButDirtyAndSound (s.skipIf c) (State.skipIf { s with dirty := d, st := v } c) := by
  cases c <;> rfl

theorem sameButDirtyAndSound_handled (i : Instr) (s : State) (d : Bool) (v : Byte) :
    SameButDirtyAndSound (handled i s) (handled i { s with dirty := d, st := v }) := by
  cases i with
  | seImm x kk | sneImm x kk | seReg x y u | sneReg x y u => exact sameButDirtyAndSound_skipIf s.advance d v _
  | skp x | sknp x =>
    change SameButDirtyAndSound _ ((keyIndex (s.reg x)).elim _ _)
    rw [handled]
    cases keyIndex (s.reg x) with
    | none => rfl
    | some k => exact sameButDirtyAndSound_skipIf s.advance d v _
  | ldVxK x =>
    change SameButDirtyAndSound _ (s.lowestKey.elim _ _)
    rw [handled]
    cases s.lowestKey <;> rfl
  | call nnn =>
    rcases Nat.lt_or_ge s.sp.val 16 with hsp | hsp
    · rw [handled_call_of_lt nnn hsp, handled_call_of_lt nnn (s := { s with dirty := d, st := v }) hsp]
      rfl
    · rw [handled_call_of_full nnn hsp, handled_call_of_full nnn (s := { s with dirty := d, st := v }) hsp]
      rfl
  | ret u =>
    rcases Nat.eq_zero_or_pos s.sp.val with hsp | hsp
    · rw [handled_ret_of_empty u hsp, handled_ret_of_empty u (s := { s with dirty := d, st := v }) hsp]
      rfl
    · rw [handled_ret_of_pos u hsp, handled_ret_of_pos u (s := { s with dirty := d, st := v }) hsp]
      rfl
  | _ => rfl

/-- Settles O55: the fetch, the tests for faults and the handlers read neither of the two, and the count of the timers
reads the sound timer for its own new value only. -/
theorem dirtyAndSoundTimerAreNotRead : Obligations.DirtyAndSoundTimerAreNotRead := by
  intro s t d v hstep
  rcases cycle_cases s with ⟨hc, hs⟩ | ⟨c, w, hrun, hfault, hs⟩ | ⟨i, hfetch, hnone, -, hs⟩ <;>
    cases hs.symm.trans hstep
  · exact ⟨_, step_of_halted hc, rfl⟩
  · exact ⟨_, step_of_cycleFault (s := { s with dirty := d, st := v }) hrun hfault, rfl⟩
  · exact ⟨_, step_of_noFault ⟨hfetch.running, hfetch.inRange, hfetch.decodes⟩ hnone,
      (sameButDirtyAndSound_handled i s d v).tick⟩

end Sys2Proof.Machine
end

section
/-! PROOFS. Cycles that change only the timers: the key wait without a key and the jump to itself
(43_keypad_timer.md R136, 60_exceptions.md R184). -/

namespace Sys2Proof.Machine

open Sys2Proof

/-- As long as a cycle does nothing but count the timers, `n` cycles count them `n` times. -/
theorem run_of_idle {P : State → Prop} (hstep : ∀ s, P s → step s = .next s.tick) (hkeep : ∀ s, P s → P s.tick)
    (n : Nat) (s : State) (h : P s) :
    ∃ t, Host.Core.run Sys2Proof.core n s = .next t ∧ UnchangedBut [.timers] s t ∧
      t.dt.toNat = s.dt.toNat - n ∧ t.st.toNat = s.st.toNat - n := by
  induction n generalizing s with
  | zero => exact ⟨s, rfl, UnchangedBut.refl _ s, rfl, rfl⟩
  | succ n ih =>
    obtain ⟨t, hrun, hframe, hdt, hst⟩ := ih s.tick (hkeep s h)
    refine ⟨t, (run_succ n (hstep s h)).trans hrun, (unchangedBut_tick s).trans hframe, ?_, ?_⟩
    · rw [hdt, State.tick_dt, countDown_toNat]
      omega
    · rw [hst, State.tick_st, countDown_toNat]
      omega

theorem Fetches.tick {s : State} {i : Instr} (h : Fetches s i) : Fetches s.tick i :=
  h.of_unchanged (unchangedBut_tick s) (by decide) (by decide) (by decide)

theorem step_of_awaitingKey {x : RegNum} {s : State} (h : AwaitingKey x s) : step s = .next s.tick :=
  (step_of_fetches h.1).trans (exec_ldVxK_of_noKey x h.2)

/-- Settles O39: the key wait is idle without a key, and the count of the timers presses none. -/
theorem keyWaitMakesNoProgressWithoutKey : Obligations.KeyWaitMakesNoProgressWithoutKey :=
  fun n x s h => run_of_idle (P := AwaitingKey x) (fun _ => step_of_awaitingKey) (fun _ hs => ⟨hs.1.tick, hs.2⟩) n s h

theorem step_of_stopped {s : State} (h : Stopped s) : step s = .next s.tick := by
  obtain ⟨nnn, hfetch, hself⟩ := h
  have htarget : absolute nnn = s.pc := BitVec.eq_of_toNat_eq ((absolute_toNat nnn).trans hself)
  have hjump : s.jumpTo (absolute nnn) = s := by
    rw [htarget]
    rfl
  exact (step_of_fetches hfetch).trans (congrArg complete hjump)

theorem Stopped.tick {s : State} (h : Stopped s) : Stopped s.tick := by
  obtain ⟨nnn, hfetch, hself⟩ := h
  exact ⟨nnn, hfetch.tick, hself⟩

/-- Settles O56: a stopped core is idle, and a timer holds at most 255. -/
theorem jumpToSelfChangesOnlyTimers : Obligations.JumpToSelfChangesOnlyTimers := by
  intro n s h
  obtain ⟨t, hrun, hframe, hdt, hst⟩ :=
    run_of_idle (P := Stopped) (fun _ => step_of_stopped) (fun _ => Stopped.tick) n s h
  refine ⟨t, hrun, hframe, hdt, hst, fun hn => ⟨?_, ?_⟩⟩ <;> bv_omega

end Sys2Proof.Machine
end

section
/-! PROOFS. Call, Return, the key skips and Random AND immediate (40_control.md R81, R83; 43_keypad_timer.md R130, R131;
41_alu.md R113). -/

namespace Sys2Proof.Machine

open Sys2Proof

/-! ### The two ends of a cycle, as the statements say them -/

theorem exec_faulted {i : Instr} {s : State} {c : FaultCause} {w : Word} (h : handlerFault i s = some (c, w)) :
    ∃ t, exec i s = .next t ∧ Faulted c w s t := ⟨_, exec_of_fault h, faulted_raise s c w⟩

theorem timersCounted_handled {i : Instr} (s : State) (h : Part.timers ∉ Part.pc :: handlerParts i) :
    TimersCounted s (handled i s).tick := (unchangedBut_handled i s).timersCounted_tick h

theorem unchangedBut_handled_tick (i : Instr) (s : State) :
    UnchangedBut (.pc :: handlerParts i ++ [.timers]) s (handled i s).tick :=
  (unchangedBut_handled i s).andThen (unchangedBut_tick _)

/-- The cycle of an instruction that goes on with the next one (10_state.md R14). -/
theorem completes_handled {i : Instr} {s : State} (hpc : (handled i s).pc = s.pc + 2)
    (h : Part.timers ∉ Part.pc :: handlerParts i) : Completes (handlerParts i) s (handled i s).tick where
  pc := hpc
  timers := timersCounted_handled s h
  frame := (unchangedBut_handled_tick i s).mono fun p hp => by
    simp only [List.cons_append, List.mem_cons, List.mem_append] at hp ⊢
    tauto

/-! ### Call and Return -/

theorem handlerFault_call_of_lt (nnn : Addr) {s : State} (h : s.sp.val < 16) : handlerFault (.call nnn) s = none :=
  (handlerFault_call nnn s).trans (if_neg fun hsp => h.ne (congrArg Fin.val hsp))

theorem handlerFault_ret_of_pos (u : Nibble) {s : State} (h : 0 < s.sp.val) : handlerFault (.ret u) s = none :=
  (handlerFault_ret u s).trans (if_neg fun hsp => h.ne' (congrArg Fin.val hsp))

/-- Settles O24: the push writes one slot, and the test for a full stack comes before it. -/
theorem callPushesOrOverflows : Obligations.CallPushesOrOverflows := by
  intro nnn s
  constructor
  · intro hsp
    have hframe := unchangedBut_handled_tick (.call nnn) s
    have htimers : TimersCounted s (handled (.call nnn) s).tick :=
      timersCounted_handled s (by simp [handlerParts, mayWrite])
    refine ⟨_, exec_of_noFault (handlerFault_call_of_lt nnn hsp), ?_, ?_, ?_, htimers, hframe⟩
    · rw [handled_call_of_lt nnn hsp]
      exact absolute_toNat nnn
    · rw [handled_call_of_lt nnn hsp]
      rfl
    · intro k
      rw [handled_call_of_lt nnn hsp]
      simp only [State.tick_stack, State.jumpTo_stack, Fin.getElem_fin, Vector.getElem_set, eq_comm]
  · intro hfull
    exact exec_faulted ((handlerFault_call nnn s).trans (if_pos (Fin.ext hfull)))

/-- Settles O25: the pop reads the slot under `sp` and writes none, and the test for an empty stack comes before it. -/
theorem returnPopsOrUnderflows : Obligations.ReturnPopsOrUnderflows := by
  intro u s
  constructor
  · intro k hk
    have hsp : 0 < s.sp.val := by omega
    have hslot : s.sp.val - 1 = k.val := by omega
    have hframe := unchangedBut_handled_tick (.ret u) s
    have htimers : TimersCounted s (handled (.ret u) s).tick :=
      timersCounted_handled s (by simp [handlerParts, mayWrite])
    refine ⟨_, exec_of_noFault (handlerFault_ret_of_pos u hsp), ?_, ?_, ?_, htimers, hframe⟩ <;>
      rw [handled_ret_of_pos u hsp]
    · simp only [State.tick_pc, State.jumpTo_pc, Fin.getElem_fin, hslot]
    · exact hslot
    · rfl
  · intro hempty
    exact exec_faulted ((handlerFault_ret u s).trans (if_pos (Fin.ext hempty)))

/-- Settles O26: the slot the Return pops is the one the Call pushed. -/
theorem callThenReturnComesBack : Obligations.CallThenReturnComesBack := by
  intro nnn u s t hsp hcall
  obtain ⟨t', ht', -, htsp, htstack, -, htframe⟩ := (callPushesOrOverflows nnn s).1 hsp
  cases ht'.symm.trans hcall
  obtain ⟨r, hr, hrpc, hrsp, -, -, hrframe⟩ := (returnPopsOrUnderflows u t).1 ⟨s.sp.val, hsp⟩ htsp.symm
  exact ⟨r, hr, hrpc.trans ((htstack _).trans (if_pos rfl)), Fin.ext hrsp, htframe.trans hrframe⟩

/-! ### The key skips -/

theorem exec_skp_of_key {x : RegNum} {s : State} {k : KeyNum} (h : (s.reg x).toNat = k.val) :
    exec (.skp x) s = complete (s.advance.skipIf (s.keyDown k == true)) ∧
    exec (.sknp x) s = complete (s.advance.skipIf (s.keyDown k == false)) := by
  have hkey : keyIndex (s.reg x) = some k := (keyIndex_of_lt (h ▸ k.isLt)).trans (congrArg some (Fin.ext h))
  simp only [exec, execSkp, execSknp, skipOnKey, hkey, and_self]

/-- Settles O37: each key skip is a skip cycle on the level of its key, and an index above 15 names no key. -/
theorem keySkips : Obligations.KeySkips := by
  intro x s
  constructor
  · intro k hk
    obtain ⟨hskp, hsknp⟩ := exec_skp_of_key hk
    rw [hskp, hsknp]
    exact ⟨complete_advance_skipIf s beq_iff_eq, complete_advance_skipIf s beq_iff_eq⟩
  · intro hx
    have hinfo : byteInfo (s.reg x) = .ofNat 16 (s.reg x).toNat := (BitVec.ofNat_toNat 16 (s.reg x)).symm
    rw [← hinfo]
    exact ⟨exec_faulted ((handlerFault_skp x s).trans (if_pos hx)),
      exec_faulted ((handlerFault_sknp x s).trans (if_pos hx))⟩

/-! ### Random AND immediate -/

/-- Settles O32: the cycle writes one register and the model's own counter. -/
theorem randomDrawsOneMaskedByte : Obligations.RandomDrawsOneMaskedByte :=
  fun x kk s => ⟨_, exec_of_noFault (i := .rnd x kk) rfl,
    completes_handled (i := .rnd x kk) rfl (by simp [handlerParts, mayWrite]), rfl,
    fun r => State.reg_setReg s.advance x r _⟩

end Sys2Proof.Machine
end

section
/-! PROOFS. The five instructions that write a flag, then a result (41_alu.md R107 to R112). -/

namespace Sys2Proof.Machine

open Sys2Proof

/-! ### Flags and results as numbers -/

theorem carryOut_toNat (a b : Byte) :
    (flagByte (carryOut a b)).toNat = if b.toNat > 255 - a.toNat then 1 else 0 := by
  simp only [flagByte_toNat, carryOut, decide_eq_true_eq]

theorem notBorrow_toNat (a b : Byte) : (flagByte (notBorrow a b)).toNat = if a.toNat ≥ b.toNat then 1 else 0 := by
  simp only [flagByte_toNat, notBorrow, decide_eq_true_eq]

theorem shiftedOutRight_toNat (a : Byte) : (flagByte (shiftedOutRight a)).toNat = a.toNat % 2 := by
  rw [flagByte_toNat, shiftedOutRight, BitVec.getLsbD, Nat.testBit_zero]
  simp only [decide_eq_true_eq]
  split <;> omega

theorem shiftedOutLeft_toNat (a : Byte) : (flagByte (shiftedOutLeft a)).toNat = a.toNat / 128 := by
  have := a.isLt
  rw [flagByte_toNat, shiftedOutLeft, BitVec.getLsbD, Nat.testBit_eq_decide_div_mod_eq]
  simp only [decide_eq_true_eq]
  split <;> omega

theorem toNat_sub_byte (a b : Byte) : (a - b).toNat = (256 + a.toNat - b.toNat) % 256 := by
  have := b.isLt
  rw [BitVec.toNat_sub]
  omega

theorem toNat_ushiftRight_one (a : Byte) : (a >>> 1).toNat = a.toNat / 2 := by
  rw [BitVec.toNat_ushiftRight, Nat.shiftRight_one]

theorem toNat_shiftLeft_one (a : Byte) : (a <<< 1).toNat = a.toNat * 2 % 256 := by
  rw [BitVec.toNat_shiftLeft, Nat.shiftLeft_eq]

/-! ### The cycle -/

/-- The two register writes on bytes are those on numbers, when the flag and the result are. -/
theorem complete_flagThenResult (s : State) (x : RegNum) {flag : Bool} {g : State → Byte} {c : Nat}
    {result : (RegNum → Nat) → Nat} (hc : (flagByte flag).toNat = c)
    (hresult : ∀ u : State, (g u).toNat = result fun q => (u.reg q).toNat) :
    ∃ t, complete (s.advance.flagThenResult x flag g) = .next t ∧ Completes [.regs] s t ∧
      FlagThenResult c x result s t := by
  refine ⟨_, complete_eq _, (unchangedBut_flagThenResult s.advance x flag g).completes_tick (by decide) (by decide), ?_⟩
  intro r
  have hregs : (fun q => ((s.advance.setFlag flag).reg q).toNat) = fun q => if q = 15 then c else (s.reg q).toNat := by
    funext q
    rw [State.reg_setFlag, apply_ite BitVec.toNat, hc]
    rfl
  rw [State.reg_tick, State.reg_flagThenResult, apply_ite BitVec.toNat, apply_ite BitVec.toNat, hc, hresult, hregs]
  rfl

/-- Settles O29: each of the five is the cycle that writes a flag and a result, with its own flag and result. -/
theorem arithmeticWritesFlagThenResult : Obligations.ArithmeticWritesFlagThenResult :=
  fun x _ s => ⟨complete_flagThenResult s x (carryOut_toNat _ _) fun _ => BitVec.toNat_add _ _,
    complete_flagThenResult s x (notBorrow_toNat _ _) fun _ => toNat_sub_byte _ _,
    complete_flagThenResult s x (shiftedOutRight_toNat _) fun _ => toNat_ushiftRight_one _,
    complete_flagThenResult s x (notBorrow_toNat _ _) fun _ => toNat_sub_byte _ _,
    complete_flagThenResult s x (shiftedOutLeft_toNat _) fun _ => toNat_shiftLeft_one _⟩

/-! ### What the two writes leave in the two registers -/

theorem FlagThenResult.of_exec {i : Instr} {s t : State} {c : Nat} {x : RegNum} {result : (RegNum → Nat) → Nat}
    (h : ∃ u, exec i s = .next u ∧ Completes [.regs] s u ∧ FlagThenResult c x result s u) (ht : exec i s = .next t) :
    FlagThenResult c x result s t := by
  obtain ⟨u, hu, -, hwrites⟩ := h
  cases hu.symm.trans ht
  exact hwrites

theorem flagThenResult_of_addReg {x y : RegNum} {s t : State} (h : exec (.addReg x y) s = .next t) :
    FlagThenResult (if (s.reg y).toNat > 255 - (s.reg x).toNat then 1 else 0) x (fun g => (g x + g y) % 256) s t := by
  obtain ⟨hadd, -⟩ := arithmeticWritesFlagThenResult x y s
  exact .of_exec hadd h

theorem flagThenResult_of_subReg {x y : RegNum} {s t : State} (h : exec (.subReg x y) s = .next t) :
    FlagThenResult (if (s.reg x).toNat ≥ (s.reg y).toNat then 1 else 0) x (fun g => (256 + g x - g y) % 256) s t := by
  obtain ⟨-, hsub, -⟩ := arithmeticWritesFlagThenResult x y s
  exact .of_exec hsub h

theorem flagThenResult_of_shr {x y : RegNum} {s t : State} (h : exec (.shr x y) s = .next t) :
    FlagThenResult ((s.reg x).toNat % 2) x (fun g => g x / 2) s t := by
  obtain ⟨-, -, hshr, -⟩ := arithmeticWritesFlagThenResult x y s
  exact .of_exec hshr h

theorem flagThenResult_of_subnReg {x y : RegNum} {s t : State} (h : exec (.subnReg x y) s = .next t) :
    FlagThenResult (if (s.reg y).toNat ≥ (s.reg x).toNat then 1 else 0) x (fun g => (256 + g y - g x) % 256) s t := by
  obtain ⟨-, -, -, hsubn, -⟩ := arithmeticWritesFlagThenResult x y s
  exact .of_exec hsubn h

theorem flagThenResult_of_shl {x y : RegNum} {s t : State} (h : exec (.shl x y) s = .next t) :
    FlagThenResult ((s.reg x).toNat / 128) x (fun g => g x * 2 % 256) s t := by
  obtain ⟨-, -, -, -, hshl⟩ := arithmeticWritesFlagThenResult x y s
  exact .of_exec hshl h

theorem FlagThenResult.result {s t : State} {c : Nat} {x : RegNum} {result : (RegNum → Nat) → Nat}
    (h : FlagThenResult c x result s t) :
    (t.reg x).toNat = result fun q => if q = 15 then c else (s.reg q).toNat := (h x).trans (if_pos rfl)

theorem FlagThenResult.flag {s t : State} {c : Nat} {x : RegNum} {result : (RegNum → Nat) → Nat}
    (h : FlagThenResult c x result s t) (hx : x ≠ 15) : (t.reg 15).toNat = c :=
  (h 15).trans ((if_neg hx.symm).trans (if_pos rfl))

theorem FlagThenResult.flag_eq_one_iff {s t : State} {c : Nat} {x : RegNum} {result : (RegNum → Nat) → Nat}
    (h : FlagThenResult c x result s t) (hx : x ≠ 15) : t.reg 15 = 1 ↔ c = 1 := by
  rw [← BitVec.toNat_inj, h.flag hx]
  rfl

/-- Settles O30: away from `V[15]` the registers after the flag write hold the old operands. -/
theorem arithmeticOnOrdinaryRegisters : Obligations.ArithmeticOnOrdinaryRegisters := by
  intro x y s t hx hy
  have hxlt := (s.reg x).isLt
  have hylt := (s.reg y).isLt
  refine ⟨fun h => ?_, fun h => ?_, fun h => ?_, fun h => ?_, fun h => ?_⟩
  · have hw := flagThenResult_of_addReg h
    have hresult := hw.result
    simp only [if_neg hx, if_neg hy] at hresult
    refine ⟨hresult, (hw.flag_eq_one_iff hx).trans ?_⟩
    split <;> omega
  · have hw := flagThenResult_of_subReg h
    have hresult := hw.result
    simp only [if_neg hx, if_neg hy] at hresult
    refine ⟨by omega, (hw.flag_eq_one_iff hx).trans ?_⟩
    split <;> omega
  · have hw := flagThenResult_of_subnReg h
    have hresult := hw.result
    simp only [if_neg hx, if_neg hy] at hresult
    refine ⟨by omega, (hw.flag_eq_one_iff hx).trans ?_⟩
    split <;> omega
  · have hw := flagThenResult_of_shr h
    have hresult := hw.result
    simp only [if_neg hx] at hresult
    exact ⟨hresult, hw.flag_eq_one_iff hx⟩
  · have hw := flagThenResult_of_shl h
    have hresult := hw.result
    simp only [if_neg hx] at hresult
    refine ⟨hresult, (hw.flag_eq_one_iff hx).trans ?_⟩
    omega

/-- With `V[15]` as the second operand the result is computed from the flag that the instruction leaves. -/
theorem FlagThenResult.flag_operand {s t : State} {c : Nat} {x : RegNum} (f : Nat → Nat → Nat)
    (h : FlagThenResult c x (fun g => f (g x) (g 15)) s t) (hx : x ≠ 15) :
    (t.reg 15).toNat = c ∧ (t.reg x).toNat = f (s.reg x).toNat (t.reg 15).toNat := by
  have hresult := h.result
  simp only [if_true, if_neg hx, ← h.flag hx] at hresult
  exact ⟨h.flag hx, hresult⟩

/-- Settles O31: where an operand is `V[15]`, the result is computed from the flag just written. -/
theorem flagRegisterAsOperand : Obligations.FlagRegisterAsOperand := by
  intro x y s t hx hy
  refine ⟨fun h => ?_, fun h => ?_, fun h => ?_, fun h => ?_, fun h => ?_, fun h => ?_, fun h => ?_, fun h => ?_,
    fun h => ?_, fun h => ?_, fun h => ?_⟩
  · simpa only [if_true, if_neg hy] using (flagThenResult_of_addReg h).result
  · exact (flagThenResult_of_addReg h).flag_operand (fun a b => (a + b) % 256) hx
  · have hresult := (flagThenResult_of_addReg h).result
    simp only [if_true] at hresult
    rw [hresult]
    split <;> split <;> omega
  · simpa only [if_true, if_neg hy] using (flagThenResult_of_subReg h).result
  · exact (flagThenResult_of_subReg h).flag_operand (fun a b => (256 + a - b) % 256) hx
  · have hresult := (flagThenResult_of_subReg h).result
    simp only [Nat.add_sub_cancel] at hresult
    exact BitVec.eq_of_toNat_eq hresult
  · have hresult := (flagThenResult_of_shr h).result
    simp only [if_true] at hresult
    exact BitVec.eq_of_toNat_eq (hresult.trans (Nat.div_eq_of_lt (Nat.mod_lt _ Nat.two_pos)))
  · simpa only [if_true, if_neg hy] using (flagThenResult_of_subnReg h).result
  · exact (flagThenResult_of_subnReg h).flag_operand (fun a b => (256 + b - a) % 256) hx
  · have hresult := (flagThenResult_of_subnReg h).result
    simp only [Nat.add_sub_cancel] at hresult
    exact BitVec.eq_of_toNat_eq hresult
  · have hresult := (flagThenResult_of_shl h).result
    have hlt := (s.reg 15).isLt
    simp only [if_true] at hresult
    rw [hresult]
    split <;> omega

end Sys2Proof.Machine
end

section
/-! PROOFS. Draw sprite (42_display.md R122 to R124), and the values a flag can have (10_state.md R11). -/

namespace Sys2Proof.Machine

open Sys2Proof

/-! ### The place of a pixel -/

/-- Settles O36: under `flat` the row takes the carry of the column, under `independent` it does not. -/
theorem targetCellGeometry : Obligations.TargetCellGeometry := by
  intro vx vy row col
  simp only [targetCell]
  omega

/-! ### The draw -/

/-- The cells that the drawing loop plots are the targets of the formula of R122. -/
theorem plots_iff_mem_spriteCells (s : State) (x y : RegNum) (n k : Nat) : Plots s x y n k ↔
    k ∈ spriteCells Config.drawWrap (s.reg x).toNat (s.reg y).toNat 0 (s.mem.readBytes s.idx.toNat n) := by
  rw [mem_spriteCells, Plots]
  simp only [SpritePixel, Memory.length_readBytes, Memory.getElem_readBytes, exists_prop, and_assoc, Nat.zero_add]
  rfl

theorem handlerFault_drw_of_spriteInMemory {s : State} {n : Nibble} (h : SpriteInMemory s n.toNat) (x y : RegNum) :
    handlerFault (.drw x y n) s = none := by
  rw [handlerFault_eq_memoryFault rfl rfl]
  refine if_neg fun hout => ?_
  have hcount : accessCount (.drw x y n) = n.toNat := rfl
  rw [hcount] at hout
  rcases h with h | h <;> omega

theorem length_spriteRows_le (s : State) (n : Nibble) : (s.mem.readBytes s.idx.toNat n.toNat).length ≤ 15 := by
  rw [Memory.length_readBytes]
  omega

/-- A draw flips exactly the targets (42_display.md R122, R123 b). -/
theorem cellAt_drawSprite (s : State) (x y : RegNum) (n : Nibble) (k : Nat) :
    (Plots s x y n.toNat k → cellAt (s.drawSprite x y n.toNat).fb k = !cellAt s.fb k) ∧
    (¬Plots s x y n.toNat k → cellAt (s.drawSprite x y n.toNat).fb k = cellAt s.fb k) := by
  obtain ⟨hcells, -⟩ := Canvas.plotRows_spec Config.drawWrap (s.reg x).toNat (s.reg y).toNat _
    (length_spriteRows_le s n) s.fb
  rw [plots_iff_mem_spriteCells]
  exact ⟨fun hk => (hcells k).trans (by simp [hk]), fun hk => (hcells k).trans (by simp [hk])⟩

/-- A draw reports whether a target was set before (42_display.md R122). -/
theorem flag_drawSprite (s : State) (x y : RegNum) (n : Nibble) :
    ∃ hit, (s.drawSprite x y n.toNat).reg 15 = flagByte hit ∧
      (hit = true ↔ ∃ k, Plots s x y n.toNat k ∧ cellAt s.fb k = true) := by
  obtain ⟨-, hhit⟩ := Canvas.plotRows_spec Config.drawWrap (s.reg x).toNat (s.reg y).toNat _
    (length_spriteRows_le s n) s.fb
  simp only [plots_iff_mem_spriteCells]
  exact ⟨_, (State.reg_drawSprite s x y 15 n.toNat).trans (if_pos rfl), hhit⟩

/-- Settles O34: the cycle draws from the state with `pc` advanced, in which the targets are the same. -/
theorem drawSpriteFlipsItsTargets : Obligations.DrawSpriteFlipsItsTargets := by
  intro x y n s h
  obtain ⟨hit, hflag, hhit⟩ := flag_drawSprite s.advance x y n
  refine ⟨_, exec_of_noFault (handlerFault_drw_of_spriteInMemory h x y),
    completes_handled (i := .drw x y n) rfl (by simp [handlerParts, mayWrite]), rfl,
    fun k _ => cellAt_drawSprite s.advance x y n k,
    fun r hr => (State.reg_drawSprite s.advance x y r n.toNat).trans (if_neg hr), fun hset => ?_, fun hunset => ?_⟩
  · have hhits : hit = true := hhit.2 hset
    exact hflag.trans (congrArg flagByte hhits)
  · have hmisses : hit = false := Bool.eq_false_iff.2 fun hh => by
      obtain ⟨k, hk, hcell⟩ := hhit.1 hh
      exact Bool.false_ne_true ((hunset k hk).symm.trans hcell)
    exact hflag.trans (congrArg flagByte hmisses)

/-! ### Two draws -/

/-- The targets depend on the registers, `I` and memory only. -/
theorem Plots.congr {s t : State} {x y : RegNum} (hx : t.reg x = s.reg x) (hy : t.reg y = s.reg y)
    (hidx : t.idx = s.idx) (hmem : ∀ a, t.mem.read a = s.mem.read a) (n k : Nat) :
    Plots t x y n k ↔ Plots s x y n k := by
  simp only [Plots, SpritePixel, hx, hy, hidx, hmem]

theorem Plots.lt {s : State} {x y : RegNum} {n k : Nat} (h : Plots s x y n k) : k < 2048 := by
  obtain ⟨_, _, -, rfl⟩ := h
  exact Nat.mod_lt _ (by decide)

/-- Settles O35: the second draw has the targets of the first and finds each of them flipped. -/
theorem drawTwiceRestoresTheScreen : Obligations.DrawTwiceRestoresTheScreen := by
  intro x y n s t u hx hy h hfirst hsecond
  obtain ⟨t', ht', htcompletes, -, htcells, htregs, -, -⟩ := drawSpriteFlipsItsTargets x y n s h
  cases ht'.symm.trans hfirst
  have hidx : t.idx = s.idx := htcompletes.frame .index (by decide)
  have hplots := Plots.congr (htregs x hx) (htregs y hy) hidx (htcompletes.frame .memory (by decide)) n.toNat
  obtain ⟨u', hu', -, -, hucells, -, huset, huunset⟩ :=
    drawSpriteFlipsItsTargets x y n t (by rwa [SpriteInMemory, hidx])
  cases hu'.symm.trans hsecond
  simp only [hplots] at hucells huset huunset
  refine ⟨fun k hk => ?_, fun hone => ?_, ?_⟩
  · by_cases hp : Plots s x y n.toNat k
    · rw [(hucells k hk).1 hp, (htcells k hk).1 hp, Bool.not_not]
    · rw [(hucells k hk).2 hp, (htcells k hk).2 hp]
  · by_contra hnone
    have hallset (k : Nat) (hp : Plots s x y n.toNat k) : cellAt t.fb k = false := by
      rw [(htcells k hp.lt).1 hp, Bool.not_eq_false']
      exact Bool.eq_true_of_not_eq_false fun hcell => hnone ⟨k, hp, hcell⟩
    rw [huunset hallset] at hone
    exact absurd hone (by decide)
  · rintro ⟨k, hp, hcell⟩
    exact huset ⟨k, hp, by rw [(htcells k hp.lt).1 hp, hcell]; rfl⟩

/-! ### The flag -/

theorem flagByte_eq_zero_or_one (c : Bool) : flagByte c = 0 ∨ flagByte c = 1 := by
  cases c
  · exact .inl rfl
  · exact .inr rfl

theorem FlagThenResult.flag_eq_zero_or_one {s t : State} {c : Nat} {x : RegNum} {result : (RegNum → Nat) → Nat}
    (h : FlagThenResult c x result s t) (hx : x ≠ 15) (hc : c ≤ 1) : t.reg 15 = 0 ∨ t.reg 15 = 1 := by
  have hflag := h.flag hx
  bv_omega

/-- Settles O21: the five write a carry, a NOT borrow or one bit, and the draw a collision. -/
theorem flagIsZeroOrOne : Obligations.FlagIsZeroOrOne := by
  intro x y n s t
  constructor
  · intro hx h
    have hbool (p : Prop) [Decidable p] : (if p then 1 else 0) ≤ 1 := by split <;> decide
    have hbyte := (s.reg x).isLt
    rcases h with h | h | h | h | h
    · exact (flagThenResult_of_addReg h).flag_eq_zero_or_one hx (hbool _)
    · exact (flagThenResult_of_subReg h).flag_eq_zero_or_one hx (hbool _)
    · exact (flagThenResult_of_shr h).flag_eq_zero_or_one hx (by omega)
    · exact (flagThenResult_of_subnReg h).flag_eq_zero_or_one hx (hbool _)
    · exact (flagThenResult_of_shl h).flag_eq_zero_or_one hx (by omega)
  · intro hsprite h
    cases (exec_of_noFault (handlerFault_drw_of_spriteInMemory hsprite x y)).symm.trans h
    obtain ⟨hit, hflag, -⟩ := flag_drawSprite s.advance x y n
    exact (flagByte_eq_zero_or_one hit).imp hflag.trans hflag.trans

end Sys2Proof.Machine
end

section
/-! PROOFS. Index arithmetic, Store BCD and the register blocks (44_index_memory.md R141 to R145). -/

namespace Sys2Proof.Machine

open Sys2Proof

/-- Settles O42: both are the cycle that writes the index register, the sum taken modulo 4096, the product not. -/
theorem indexArithmetic : Obligations.IndexArithmetic := by
  intro x s
  obtain ⟨t, ht, htcompletes, htidx⟩ := complete_advance_setIdx s (indexPlus s.idx (s.reg x).toNat)
  obtain ⟨u, hu, hucompletes, huidx⟩ := complete_advance_setIdx s (glyphAddr (s.reg x))
  exact ⟨⟨t, ht, htcompletes, htidx ▸ indexPlus_toNat _ _⟩, ⟨u, hu, hucompletes, huidx ▸ glyphAddr_toNat _⟩⟩

/-! ### The test on the highest address -/

/-- An instruction whose only test is on memory, its highest address being `I + k`. -/
theorem handlerFault_of_accessCount {i : Instr} {k : Nat} {s : State} (hcount : accessCount i = k + 1)
    (hstack : stackFault i (encode i) s = none) (hkey : keyFault i s = none) : handlerFault i s =
      if 0xFFF < s.idx.toNat + k then some (.memoryOutOfRange, .ofNat 16 (s.idx.toNat + k)) else none :=
  (handlerFault_eq_memoryFault hstack hkey).trans (memoryFault_of_accessCount_succ hcount s)

theorem handlerFault_ldB (x : RegNum) (s : State) : handlerFault (.ldB x) s =
    if 0xFFF < s.idx.toNat + 2 then some (.memoryOutOfRange, .ofNat 16 (s.idx.toNat + 2)) else none :=
  handlerFault_of_accessCount rfl rfl rfl

theorem handlerFault_stBlock (x : RegNum) (s : State) : handlerFault (.stBlock x) s =
    if 0xFFF < s.idx.toNat + x.val then some (.memoryOutOfRange, .ofNat 16 (s.idx.toNat + x.val)) else none :=
  handlerFault_of_accessCount rfl rfl rfl

theorem handlerFault_ldBlock (x : RegNum) (s : State) : handlerFault (.ldBlock x) s =
    if 0xFFF < s.idx.toNat + x.val then some (.memoryOutOfRange, .ofNat 16 (s.idx.toNat + x.val)) else none :=
  handlerFault_of_accessCount rfl rfl rfl

/-! ### Store BCD -/

/-- Settles O43: the three bytes stored are the three digits, and a digit fits in a byte. -/
theorem storeBcdWritesThreeDigits : Obligations.StoreBcdWritesThreeDigits := by
  intro x s
  constructor
  · intro hmem hlast
    have hbyte := (s.reg x).isLt
    have hroom : s.idx.toNat + (bcdDigits (s.reg x)).length ≤ Config.memSize := by
      rw [bcdDigits_length, Config.memSize]
      omega
    have hdigit (j : Nat) (hj : j < 3) :
        (handled (.ldB x) s).tick.mem.read (s.idx.toNat + j) = (bcdDigits (s.reg x))[j] :=
      Memory.read_writeBytes hmem (bcdDigits (s.reg x)) hroom j hj
    refine ⟨_, exec_of_noFault ((handlerFault_ldB x s).trans (if_neg (by omega))),
      completes_handled (i := .ldB x) rfl (by simp [handlerParts, mayWrite]), ?_, ?_, ?_,
      fun a ha => Memory.read_writeBytes_outside s.mem (bcdDigits (s.reg x)) ha⟩
    · rw [← Nat.add_zero s.idx.toNat, hdigit 0 (by decide)]
      exact (BitVec.toNat_ofNat _ _).trans (Nat.mod_eq_of_lt (by omega))
    · rw [hdigit 1 (by decide)]
      exact (BitVec.toNat_ofNat _ _).trans (Nat.mod_eq_of_lt (by omega))
    · rw [hdigit 2 (by decide)]
      exact (BitVec.toNat_ofNat _ _).trans (Nat.mod_eq_of_lt (by omega))
  · intro hlast
    exact exec_faulted ((handlerFault_ldB x s).trans (if_pos hlast))

/-! ### Register blocks -/

theorem read_writeBytes_regBlock {s : State} (hmem : s.mem.wf = true) {x : RegNum}
    (hlast : s.idx.toNat + x.val ≤ 0xFFF) {r : RegNum} (hr : r ≤ x) :
    (s.mem.writeBytes s.idx.toNat (s.regBlock x)).read (s.idx.toNat + r.val) = s.reg r := by
  have hroom : s.idx.toNat + (s.regBlock x).length ≤ Config.memSize := by
    rw [State.length_regBlock, Config.memSize]
    omega
  have hj : r.val < (s.regBlock x).length := by
    rw [State.length_regBlock]
    exact Nat.lt_succ_of_le hr
  exact (Memory.read_writeBytes hmem (s.regBlock x) hroom r.val hj).trans (s.getElem_regBlock x r.val hj)

/-- Settles O44: the bytes stored are the registers, in order, and there are x + 1 of them. -/
theorem storeBlockWritesRegisters : Obligations.StoreBlockWritesRegisters := by
  intro x s
  constructor
  · intro hmem hlast
    refine ⟨_, exec_of_noFault ((handlerFault_stBlock x s).trans (if_neg (Nat.not_lt.2 hlast))),
      completes_handled (i := .stBlock x) rfl (by simp [handlerParts, mayWrite]), indexPlus_toNat _ _,
      fun r hr => read_writeBytes_regBlock hmem hlast hr, fun a ha => ?_⟩
    exact Memory.read_writeBytes_outside s.mem _ ((s.length_regBlock x).symm ▸ ha)
  · intro hlast
    exact exec_faulted ((handlerFault_stBlock x s).trans (if_pos hlast))

/-- Settles O45: the registers up to x get the bytes from `I` upward. -/
theorem loadBlockReadsRegisters : Obligations.LoadBlockReadsRegisters := by
  intro x s
  constructor
  · intro hlast
    exact ⟨_, exec_of_noFault ((handlerFault_ldBlock x s).trans (if_neg (Nat.not_lt.2 hlast))),
      completes_handled (i := .ldBlock x) rfl (by simp [handlerParts, mayWrite]), indexPlus_toNat _ _,
      fun r => State.reg_loadRegBlock s.advance x r s.idx.toNat⟩
  · intro hlast
    exact exec_faulted ((handlerFault_ldBlock x s).trans (if_pos hlast))

/-- Settles O46: the load reads the bytes that the store wrote, and both advance the same `I`. -/
theorem blockStoreThenLoadRestores : Obligations.BlockStoreThenLoadRestores := by
  intro x s t t' u hmem hlast hstore hmem' hidx' hload
  obtain ⟨t₁, ht₁, -, htidx, htmem, -⟩ := (storeBlockWritesRegisters x s).1 hmem hlast
  cases ht₁.symm.trans hstore
  obtain ⟨u₁, hu₁, -, huidx, hureg⟩ := (loadBlockReadsRegisters x t').1 (hidx' ▸ hlast)
  cases hu₁.symm.trans hload
  refine ⟨fun r hr => ?_, BitVec.eq_of_toNat_eq ?_⟩
  · rw [hureg, if_pos hr, hmem', hidx']
    exact htmem r hr
  · rw [huidx, hidx', htidx]

/-- Settles O47: the two bytes of the fetched word are the two registers. -/
theorem storeIsSeenByNextFetch : Obligations.StoreIsSeenByNextFetch := by
  intro x r r' s t hmem hlast hstore hnext hr' hpc
  obtain ⟨t₁, ht₁, -, -, htmem, -⟩ := (storeBlockWritesRegisters x s).1 hmem hlast
  cases ht₁.symm.trans hstore
  have hr : r ≤ x := (Fin.le_def.2 (by omega)).trans hr'
  rw [fetchIsBigEndian t, ← hpc, htmem r hr, Nat.add_assoc, ← hnext, htmem r' hr']

end Sys2Proof.Machine
end
